-- ==== Sys2Proof/Word.lean ====
section
/-! DEFINITION. The word types of the model: bytes, patterns of a configured width, control words. -/

namespace Sys2Proof

/-- One byte of a byte stream or of the feedback value (R78, R90). -/
abbrev Byte := BitVec 8

/-- A bit pattern whose width is a configuration parameter (a sample of BIT_DEPTH bits, PHASE of PHI_BITS
bits, ...), as the unsigned number it stands for (R10). The width is not in the type: `Safety.lean` states the
ranges of R42 and every step keeps them (log entry 11). -/
abbrev Pattern := Nat

/-- A control word, in the width of the widest format (DMX, 5 bits, R103). A narrower format uses the low
bits and leaves the others 0. -/
abbrev CtrlWord := BitVec 5

end Sys2Proof
end

