-- ==== Sys2Proof/Syntax.lean ====
section
/-! DEFINITION. Syntax: the blocks and the operations of spec/opcode_table.json, one constructor a row. -/

namespace Sys2Proof

/-- The two RateDivider instances of the design (R129). -/
inductive Divider where
  | sample  -- its pulse is `sample_tick`
  | pulse   -- its pulse is `stb`
deriving DecidableEq, Repr

/-- The blocks that perform one operation each on every master tick (R70, R100), one per instance. The
meter has an input side and an output side (R107). -/
inductive Block where
  | rdiv (d : Divider)
  | nco
  | dmx
  | mux
  | dsm
  | seq
  | vui
  | vuo
  | fb
deriving DecidableEq, Repr

/-- The operations of the opcode table (R101 to R108). A bit of the control word that does not take part in the
selection is an operand of the constructor, under the letter of the table. -/
inductive Instr where
  | rdivReload (d : Divider)         -- RDIV.RELOAD, R126
  | rdivCount (d : Divider)          -- RDIV.COUNT, R127
  | ncoAdvance                       -- NCO.ADVANCE, R147
  | ncoHold                          -- NCO.HOLD, R148
  | dmxHold (e l k f : Bool)         -- DMX.HOLD, R173
  | dmxStart (l f : Bool)            -- DMX.START, R174, R183
  | dmxMid                           -- DMX.MID, R175
  | dmxLast                          -- DMX.LAST, R176
  | dmxViolate (l : Bool)            -- DMX.VIOLATE, R177
  | dmxResync (l k f : Bool)         -- DMX.RESYNC, R178
  | muxHold (l : Bool)               -- MUX.HOLD, R204
  | muxByte                          -- MUX.BYTE, R205
  | muxWrap                          -- MUX.WRAP, R206
  | dsmHold                          -- DSM.HOLD, R222
  | dsmMod                           -- DSM.MOD, R223
  | dsmUpdate                        -- DSM.UPDATE, R224
  | dsmModupd                        -- DSM.MODUPD, R225
  | seqWait                          -- SEQ.WAIT, R230
  | seqFire                          -- SEQ.FIRE, R231
  | seqRead (t : Bool)               -- SEQ.READ, R232
  | seqLatch (t : Bool)              -- SEQ.LATCH, R233
  | vuPush                           -- VU.PUSH, R251
  | vuReject                         -- VU.REJECT, R252
  | vuNopush (n : Bool)              -- VU.NOPUSH, R253
  | vuPop                            -- VU.POP, R255
  | vuStarve                         -- VU.STARVE, R257
  | vuKeep (m : Bool)                -- VU.KEEP, R263
  | fbRead (i : BitVec 2)            -- FB.READ, R284
deriving DecidableEq, Repr

/-- The block that performs the operation (the format column of R101 to R108). -/
def Instr.block : Instr → Block
  | .rdivReload d => .rdiv d
  | .rdivCount d => .rdiv d
  | .ncoAdvance => .nco
  | .ncoHold => .nco
  | .dmxHold _ _ _ _ => .dmx
  | .dmxStart _ _ => .dmx
  | .dmxMid => .dmx
  | .dmxLast => .dmx
  | .dmxViolate _ => .dmx
  | .dmxResync _ _ _ => .dmx
  | .muxHold _ => .mux
  | .muxByte => .mux
  | .muxWrap => .mux
  | .dsmHold => .dsm
  | .dsmMod => .dsm
  | .dsmUpdate => .dsm
  | .dsmModupd => .dsm
  | .seqWait => .seq
  | .seqFire => .seq
  | .seqRead _ => .seq
  | .seqLatch _ => .seq
  | .vuPush => .vui
  | .vuReject => .vui
  | .vuNopush _ => .vui
  | .vuPop => .vuo
  | .vuStarve => .vuo
  | .vuKeep _ => .vuo
  | .fbRead _ => .fb

/-- The width of a block's control word in bits (R101 to R108). -/
def Block.width : Block → Nat
  | .rdiv _ => 1
  | .nco => 1
  | .dmx => 5
  | .mux => 2
  | .dsm => 2
  | .seq => 3
  | .vui => 2
  | .vuo => 2
  | .fb => 2

end Sys2Proof
end

