-- ==== Sys2Proof/WellFormed.lean ====
section
/-! DEFINITION. WellFormed: which operations the spec's control words can name. -/

namespace Sys2Proof

/-- R109 (d): a DMX control word with `e = 1` together with `l = 1` or `k = 1` is unreachable and has no
meaning (`DSTATE` cannot be ERROR and a BYTE state at once). Every other operand value is an encoding of the
table. -/
def Instr.wellFormed : Instr → Bool
  | .dmxHold e l k _ => !(e && (l || k))
  | .dmxResync l k _ => !(l || k)
  | .rdivReload _ => true
  | .rdivCount _ => true
  | .ncoAdvance => true
  | .ncoHold => true
  | .dmxStart _ _ => true
  | .dmxMid => true
  | .dmxLast => true
  | .dmxViolate _ => true
  | .muxHold _ => true
  | .muxByte => true
  | .muxWrap => true
  | .dsmHold => true
  | .dsmMod => true
  | .dsmUpdate => true
  | .dsmModupd => true
  | .seqWait => true
  | .seqFire => true
  | .seqRead _ => true
  | .seqLatch _ => true
  | .vuPush => true
  | .vuReject => true
  | .vuNopush _ => true
  | .vuPop => true
  | .vuStarve => true
  | .vuKeep _ => true
  | .fbRead _ => true

/-- Which operations can fire in a machine whose subframes have `size` bytes (SUBSLOT_SIZE): R103 (with one byte,
BYTE0 is also the last state), R175 (MID exists only when S = 4), R183 (with S = 1 nothing but START and HOLD, and
no ERROR), R205 (MUX.BYTE only when S > 1). -/
def Instr.existsAt (size : Nat) : Instr → Bool
  | .dmxHold e l k _ =>
    match e, l, k with
    | true, _, _ => decide (1 < size)
    | false, true, true => size == 1
    | false, false, false => decide (2 < size)
    | false, _, _ => decide (1 < size)
  | .dmxStart l _ => l == (size == 1)
  | .dmxMid => decide (2 < size)
  | .dmxLast => decide (1 < size)
  | .dmxViolate l => decide (1 < size) && (l || decide (2 < size))
  | .dmxResync _ _ _ => decide (1 < size)
  | .muxHold l => l || decide (1 < size)
  | .muxByte => decide (1 < size)
  | .rdivReload _ => true
  | .rdivCount _ => true
  | .ncoAdvance => true
  | .ncoHold => true
  | .muxWrap => true
  | .dsmHold => true
  | .dsmMod => true
  | .dsmUpdate => true
  | .dsmModupd => true
  | .seqWait => true
  | .seqFire => true
  | .seqRead _ => true
  | .seqLatch _ => true
  | .vuPush => true
  | .vuReject => true
  | .vuNopush _ => true
  | .vuPop => true
  | .vuStarve => true
  | .vuKeep _ => true
  | .fbRead _ => true

end Sys2Proof
end

