-- ==== Sys2Proof/Decode.lean ====
section
/-! DEFINITION. Decode: from a block's control word to its operation, the encoder, and the opcode table as
masks and matches (30_encoding.md R100 to R109). -/

namespace Sys2Proof

/-- Why a word names no operation of its block. -/
inductive DecodeError where
  | tooWide            -- a bit above the format's width is set
  | seqStateThree      -- format SEQ with `q = 3`, never reached (R106, R109 (d))
  | errorAndByteState  -- format DMX with `e = 1` and `l = 1` or `k = 1` (R109 (d))
deriving DecidableEq, Repr

/-- A control word from its bits, leftmost most significant, as the `encoding` strings are written (R100). -/
def packBits (bits : List Bool) : CtrlWord :=
  BitVec.ofNat 5 (bits.foldl (fun acc x => 2 * acc + x.toNat) 0)

/-- Format DMX (R103): `cw[4:0] = e l k g f`, selected as the encodings column has it. -/
def decodeDmx (e l k g f : Bool) : Except DecodeError Instr :=
  if e && (l || k) then .error .errorAndByteState
  else if !g then .ok (.dmxHold e l k f)
  else if e then .ok (.dmxResync l k f)
  else if k then .ok (.dmxStart l f)
  else if f then .ok (.dmxViolate l)
  else if l then .ok .dmxLast
  else .ok .dmxMid

/-- Format MUX (R104): `cw[1:0] = r l`. -/
def decodeMux (r l : Bool) : Instr :=
  if r then (if l then .muxWrap else .muxByte) else .muxHold l

/-- Format DSM (R105): `cw[1:0] = u s`. -/
def decodeDsm (u s : Bool) : Instr :=
  if u then (if s then .dsmModupd else .dsmUpdate) else (if s then .dsmMod else .dsmHold)

/-- Format SEQ (R106): `cw[2:0] = q1 q0 t`. -/
def decodeSeq (q1 q0 t : Bool) : Except DecodeError Instr :=
  match q1, q0 with
  | false, false => .ok (if t then .seqFire else .seqWait)
  | false, true => .ok (.seqRead t)
  | true, false => .ok (.seqLatch t)
  | true, true => .error .seqStateThree

/-- Format VUI (R107): `cw[1:0] = v n`. -/
def decodeVui (v n : Bool) : Instr :=
  if v then (if n then .vuReject else .vuPush) else .vuNopush n

/-- Format VUO (R107): `cw[1:0] = t m`. -/
def decodeVuo (t m : Bool) : Instr :=
  if t then (if m then .vuStarve else .vuPop) else .vuKeep m

/-- The operation that a control word selects in a block (R100 to R108): total, rejecting by name. -/
def decode (b : Block) (w : CtrlWord) : Except DecodeError Instr :=
  if 2 ^ b.width ≤ w.toNat then .error .tooWide
  else
    match b with
    | .rdiv d => .ok (if w.getLsbD 0 then .rdivReload d else .rdivCount d)
    | .nco => .ok (if w.getLsbD 0 then .ncoAdvance else .ncoHold)
    | .dmx => decodeDmx (w.getLsbD 4) (w.getLsbD 3) (w.getLsbD 2) (w.getLsbD 1) (w.getLsbD 0)
    | .mux => .ok (decodeMux (w.getLsbD 1) (w.getLsbD 0))
    | .dsm => .ok (decodeDsm (w.getLsbD 1) (w.getLsbD 0))
    | .seq => decodeSeq (w.getLsbD 2) (w.getLsbD 1) (w.getLsbD 0)
    | .vui => .ok (decodeVui (w.getLsbD 1) (w.getLsbD 0))
    | .vuo => .ok (decodeVuo (w.getLsbD 1) (w.getLsbD 0))
    | .fb => .ok (.fbRead (BitVec.ofNat 2 w.toNat))

/-- The control word of an operation, from the encoding column of R101 to R108, most significant bit first. -/
def Instr.encode : Instr → CtrlWord
  | .rdivReload _ => packBits [true]
  | .rdivCount _ => packBits [false]
  | .ncoAdvance => packBits [true]
  | .ncoHold => packBits [false]
  | .dmxHold e l k f => packBits [e, l, k, false, f]
  | .dmxStart l f => packBits [false, l, true, true, f]
  | .dmxMid => packBits [false, false, false, true, false]
  | .dmxLast => packBits [false, true, false, true, false]
  | .dmxViolate l => packBits [false, l, false, true, true]
  | .dmxResync l k f => packBits [true, l, k, true, f]
  | .muxHold l => packBits [false, l]
  | .muxByte => packBits [true, false]
  | .muxWrap => packBits [true, true]
  | .dsmHold => packBits [false, false]
  | .dsmMod => packBits [false, true]
  | .dsmUpdate => packBits [true, false]
  | .dsmModupd => packBits [true, true]
  | .seqWait => packBits [false, false, false]
  | .seqFire => packBits [false, false, true]
  | .seqRead t => packBits [false, true, t]
  | .seqLatch t => packBits [true, false, t]
  | .vuPush => packBits [true, false]
  | .vuReject => packBits [true, true]
  | .vuNopush n => packBits [false, n]
  | .vuPop => packBits [true, false]
  | .vuStarve => packBits [true, true]
  | .vuKeep m => packBits [false, m]
  | .fbRead i => packBits [i.getLsbD 1, i.getLsbD 0]

/-- The `match` and `mask` columns of spec/opcode_table.json for the row of an operation: the operation fires
iff `cw AND mask = match` (R100). -/
def Instr.tableRow : Instr → CtrlWord × CtrlWord
  | .rdivReload _ => (0x01, 0x01)
  | .rdivCount _ => (0x00, 0x01)
  | .ncoAdvance => (0x01, 0x01)
  | .ncoHold => (0x00, 0x01)
  | .dmxHold _ _ _ _ => (0x00, 0x02)
  | .dmxStart _ _ => (0x06, 0x16)
  | .dmxMid => (0x02, 0x1F)
  | .dmxLast => (0x0A, 0x1F)
  | .dmxViolate _ => (0x03, 0x17)
  | .dmxResync _ _ _ => (0x12, 0x12)
  | .muxHold _ => (0x00, 0x02)
  | .muxByte => (0x02, 0x03)
  | .muxWrap => (0x03, 0x03)
  | .dsmHold => (0x00, 0x03)
  | .dsmMod => (0x01, 0x03)
  | .dsmUpdate => (0x02, 0x03)
  | .dsmModupd => (0x03, 0x03)
  | .seqWait => (0x00, 0x07)
  | .seqFire => (0x01, 0x07)
  | .seqRead _ => (0x02, 0x06)
  | .seqLatch _ => (0x04, 0x06)
  | .vuPush => (0x02, 0x03)
  | .vuReject => (0x03, 0x03)
  | .vuNopush _ => (0x00, 0x02)
  | .vuPop => (0x02, 0x03)
  | .vuStarve => (0x03, 0x03)
  | .vuKeep _ => (0x00, 0x02)
  | .fbRead _ => (0x00, 0x00)

/-- Does the word fit the row of the operation? -/
def Instr.matchesRow (i : Instr) (w : CtrlWord) : Bool :=
  w &&& i.tableRow.2 == i.tableRow.1

/-- The formats a bare word of `nbits` bits may belong to, narrowest first and in the order of R100 (log entry 6:
the table's words carry no format, and the formats share their words). A width that is a format's own picks
that format's width only. -/
def tableBlocks (nbits : Nat) : List Block :=
  let all : List Block := [.rdiv .sample, .nco, .mux, .dsm, .vui, .vuo, .fb, .seq, .dmx]
  if all.any (fun b => b.width == nbits) then all.filter (fun b => b.width == nbits) else all

/-- The first of these blocks in which the word names an operation. -/
def firstDecode (w : CtrlWord) : List Block → Option Instr
  | [] => none
  | b :: bs =>
    match decode b w with
    | .ok i => some i
    | .error _ => firstDecode w bs

/-- The operation read from a bare table word (log entry 6). -/
def decodeTableWord (nbits w : Nat) : Option Instr :=
  if w < 32 then firstDecode (BitVec.ofNat 5 w) (tableBlocks nbits) else none

end Sys2Proof
end

