-- ==== Sys2Proof/Config.lean ====
section
/-! DEFINITION. Config: the configuration record of R9, the configuration errors of R301 to R304, the ports of
R43, and the one free value of the model. -/

namespace Sys2Proof

/-- The configuration record (R9), fixed before construction and never changed (R8). SUBSLOT_SIZE and INDEX_BITS are
derived (R91, R99), SAMPLE_MAX_PPM is the constant 0. `hasMux` and `hasDac` say which of the two blocks with
configuration conditions of their own are built (R304: "with a multiplexer", "with a DAC sequencer"; log
entry 15). -/
structure Config where
  bitDepth : Nat            -- BIT_DEPTH
  signed : Bool             -- SIGNED
  channels : Nat            -- CHANNELS
  phiBits : Nat             -- PHI_BITS
  tableLength : Nat         -- TABLE_LENGTH
  gain : Rat                -- GAIN
  masterHz : Rat            -- MASTER_HZ
  sampleRateHz : Rat        -- SAMPLE_RATE_HZ
  pulseRateHz : Rat         -- PULSE_RATE_HZ
  pulseMaxPpm : Rat         -- PULSE_MAX_PPM
  segments : Nat            -- SEGMENTS
  fifoDepth : Nat           -- FIFO_DEPTH
  fbShift : Nat             -- FB_SHIFT
  maxPacketSize : Nat       -- MAX_PACKET_SIZE
  divInitSample : Nat       -- DIV_INIT of the sample-rate divider
  divInitPulse : Nat        -- DIV_INIT of the pulse-rate divider
  phaseInit : Nat           -- PHASE_INIT
  accInit : List Nat        -- ACC_INIT[c], one entry a channel
  hasMux : Bool
  hasDac : Bool
deriving DecidableEq, Repr

/-- The parameter that an E_CONFIG refusal names (R304). `accInit c` is ACC_INIT[c]; `accInitCount`, a list that has not
one entry a channel, is the model's own (DESIGN CHOICE, log entry 14). -/
inductive ConfigField where
  | tableLength | phiBits | gain | channels | segments
  | masterHz | sampleRateHz | pulseRateHz | pulseMaxPpm
  | fbShift | fifoDepth | phaseInit | accInit (c : Nat) | accInitCount
  | sampleCycles | divInitSample | divInitPulse | feedback
deriving DecidableEq, Repr

/-- The configuration errors, with the information R301 to R304 record. `deviation` is the fraction of R122;
there is none when `cycles` is 0 (R124 (a)). -/
inductive ConfigError where
  | eRate (which : Divider) (masterHz targetHz : Rat) (cycles : Nat) (deviation : Option Rat)
  | eBitDepth (value : Nat)
  | eBandwidth (required maxPacketSize : Nat)
  | eConfig (field : ConfigField) (value : Rat)
deriving DecidableEq, Repr

/-- The names of R316: the four configuration errors and the one run-time exception (R306). -/
inductive ErrorName where
  | eRate | eBitDepth | eBandwidth | eConfig
  | framingViolation
deriving DecidableEq, Repr

/-- The input ports of every block during one tick (R43). Ports of a configured width carry any number: the port
readings of Machine/Ports.lean keep the low bits, as many as the port has (log entry 11). -/
structure Inputs where
  phaseIncrement : Nat := 0         -- NCO phase_increment
  ncoReady : Bool := false          -- NCO out_ready
  dmxByte : Byte := 0               -- DMX in_byte
  dmxFirst : Bool := false          -- DMX in_first
  dmxValid : Bool := false          -- DMX in_valid
  dmxReady : List Bool := []        -- DMX out_ready[c]
  muxValid : List Bool := []        -- MUX s_valid[c]
  muxSample : List Nat := []        -- MUX s_sample[c]
  muxReady : Bool := false          -- MUX out_ready
  qValid : List Bool := []          -- SEQ q_valid[c]
  qSample : List Nat := []          -- SEQ q_sample[c]
  vuValid : Bool := false           -- VU in_valid
  vuSample : Nat := 0               -- VU in_sample
  fbIndex : BitVec 2 := 0           -- FB fb_index
deriving DecidableEq, Repr, Inhabited

/-- The output ports of every block during one tick (R43, R32), and the transfers that R172, R179 and R206 speak
of. All 0 on a port that no operation of the tick drives (log entry 8). -/
structure Outputs where
  pulseSample : Bool := false       -- RDIV pulse of the sample-rate divider (sample_tick)
  pulseMod : Bool := false          -- RDIV pulse of the pulse-rate divider (stb)
  ncoValid : Bool := false          -- NCO out_valid
  ncoSample : Nat := 0              -- NCO out_sample
  dmxInReady : Bool := false        -- DMX in_ready
  dmxConsumed : Bool := false       -- the inbound transfer: in_valid AND in_ready (R172)
  dmxOutValid : List Bool := []     -- DMX out_valid[c]
  dmxOutSample : Nat := 0           -- DMX out_sample
  dmxHandoff : List Bool := []      -- out_valid[c] AND out_ready[c] (R179)
  framingError : Bool := false      -- DMX framing_error
  muxOutValid : Bool := false       -- MUX out_valid
  muxOutByte : Byte := 0            -- MUX out_byte
  muxSReady : List Bool := []       -- MUX s_ready[c]
  muxHandoff : List Bool := []      -- s_ready[c] AND s_valid[c] (R206)
  dacOut : List Bool := []          -- DSM out[c]
  qReady : List Bool := []          -- SEQ q_ready[c]
  update : Bool := false            -- SEQ update
  vuInReady : Bool := false         -- VU in_ready
  lit : Nat := 0                    -- VU LIT, bit s is segment s
  level : Nat := 0                  -- VU LEVEL
  fbByte : Byte := 0                -- FB fb_byte
deriving DecidableEq, Repr, Inhabited

/-- The inputs of tick `n` where the stimulus trace says nothing of it: a free value, any inputs at all (log
entry 3). -/
opaque Config.freeInputs : Nat → Inputs

end Sys2Proof
end

