-- ==== Sys2Proof/Machine/Regs.lean ====
section
/-! DEFINITION. Machine/Regs: the constants of a constructed machine and its registers (R20, R42). -/

namespace Sys2Proof.Machine

/-- The supported values of BIT_DEPTH (R9, R302). -/
inductive BitDepth where
  | d8 | d16 | d24 | d32
deriving DecidableEq, Repr

/-- What construction fixes (R20: not state, parameters of the step): the checked part of the configuration record
that a tick reads, and the values computed from the record. `table`, `th` and `fb` are fields, so that every
run-time rule holds for any contents (R142, R258). -/
structure Params where
  depth : BitDepth          -- BIT_DEPTH
  signed : Bool             -- SIGNED
  channels : Nat            -- CHANNELS
  phiBits : Nat             -- PHI_BITS
  indexBits : Nat           -- INDEX_BITS, log2 of TABLE_LENGTH
  segments : Nat            -- SEGMENTS
  hasMux : Bool
  hasDac : Bool
  cyclesSample : Nat        -- cycles of the sample-rate divider
  cyclesPulse : Nat         -- cycles of the pulse-rate divider
  table : List Nat          -- TABLE[0 .. N-1], b-bit patterns
  th : List Nat             -- TH[0 .. SEGMENTS-1]
  fb : BitVec 32            -- FB
deriving DecidableEq, Repr

/-- The demultiplexer's FSM register (R26, R103). `byte k` with `k >= S` and, for S = 1, `error` are never
reached (R109 (d), R183) and refused. -/
inductive DState where
  | byte (k : Fin 4)
  | error
deriving DecidableEq, Repr

/-- The sequencer's FSM register (R29). The stored value 3 of R106 is not representable (R109 (d)). -/
inductive SeqState where
  | wait | channelRead | latch
deriving DecidableEq, Repr

/-- A FIFO (R63): its entries, oldest first, and the value most recently popped. -/
structure Fifo where
  items : List Pattern
  last : Pattern
deriving DecidableEq, Repr

/-- The registers and queues of R42. -/
structure Regs where
  cntSample : Nat           -- CNT of the sample-rate divider
  cntPulse : Nat            -- CNT of the pulse-rate divider
  phase : Pattern           -- PHASE
  dstate : DState           -- DSTATE
  chan : Nat                -- CHAN
  sub : List Byte           -- SUB.byte[0 .. S-2]
  sel : Bool                -- SEL (true is channel 1)
  off : BitVec 2            -- OFF
  acc : List Pattern        -- ACC[c]
  r : List Pattern          -- R[c]
  seq : SeqState            -- SEQ
  h : List Pattern          -- H[c]
  q : List Fifo             -- Q[c]
  vq : Fifo                 -- VQ
  mag : Pattern             -- MAG
deriving DecidableEq, Repr

end Sys2Proof.Machine
end

