-- ==== Sys2Proof/Machine/Operands.lean ====
section
/-! DEFINITION. Machine/Operands: the notation of 00_scope.md section 4, subframe assembly and packing, table index,
averaging, offset conversion, rectifier, display functions. -/

namespace Sys2Proof.Machine

/-! ### Widths (R9, R91) -/

/-- b, the width of a sample. -/
def BitDepth.bits : BitDepth → Nat
  | .d8 => 8
  | .d16 => 16
  | .d24 => 24
  | .d32 => 32

/-- S, the bytes of a subframe (R91): 1, 2, 4, 4. -/
def BitDepth.subslot : BitDepth → Nat
  | .d8 => 1
  | .d16 => 2
  | .d24 => 4
  | .d32 => 4

/-- `PAD = 8*S - b` (R91). -/
def BitDepth.pad (d : BitDepth) : Nat := 8 * d.subslot - d.bits

/-- b of a constructed machine. -/
def Params.bits (p : Params) : Nat := p.depth.bits

/-- S of a constructed machine. -/
def Params.subslot (p : Params) : Nat := p.depth.subslot

/-- N = TABLE_LENGTH, a power of two. -/
def Params.tableLength (p : Params) : Nat := 2 ^ p.indexBits

/-! ### Bit patterns (00_scope.md section 4, R10) -/

/-- `trunc_n(v) = v mod 2^n`. -/
def trunc (n v : Nat) : Nat := v % 2 ^ n

/-- `signed_n(p)`: the integer a two's-complement pattern of n bits stands for (R10). -/
def signedVal (n p : Nat) : Int := if p < 2 ^ (n - 1) then p else (p : Int) - 2 ^ n

/-- `trunc_n` of an integer: its n-bit two's-complement pattern. -/
def patternOf (n : Nat) (v : Int) : Nat := (v % 2 ^ n).toNat

/-- Byte k of a word, `w[8k+7:8k]`. -/
def byteAt (w k : Nat) : Byte := BitVec.ofNat 8 (w / 2 ^ (8 * k))

/-! ### Subframes (R92, R93, R96) -/

/-- The subslot word of bytes in arrival order, offset 0 least significant (R76, R93). -/
def subslotWord : List Byte → Nat
  | [] => 0
  | x :: xs => x.toNat + 256 * subslotWord xs

/-- Inbound sample assembly (R93): `W[8S-1:PAD]`. -/
def assemble (d : BitDepth) (bytes : List Byte) : Pattern := subslotWord bytes / 2 ^ d.pad

/-- Outbound packing (R96, R202): `zext_8S(sample) << PAD`. -/
def packSample (d : BitDepth) (sample : Pattern) : Nat := trunc d.bits sample * 2 ^ d.pad

/-! ### Oscillator (R62, R99, R143 to R145) -/

/-- `MemRead(addr, n)`: n consecutive entries of TABLE from `addr`, indices modulo N (R62). -/
def memRead (table : List Nat) (addr n : Nat) : List Pattern :=
  (List.range n).map fun j => table.getD ((addr + j) % table.length) 0

/-- `idx = PHASE[PHI_BITS-1 : PHI_BITS-INDEX_BITS]`, 0 when INDEX_BITS = 0 (R99, R143). -/
def tableIndex (p : Params) (phase : Pattern) : Nat :=
  phase / 2 ^ (p.phiBits - p.indexBits) % p.tableLength

/-- The mean of two samples (R145): the floor of half the exact sum, signed or unsigned as the samples are. -/
def mean (p : Params) (a b : Pattern) : Pattern :=
  if p.signed then patternOf p.bits ((signedVal p.bits a + signedVal p.bits b) / 2)
  else (a + b) / 2

/-- The output function f(PHASE) (R143 to R145): the mean of the entries at `idx` and `idx + 1`, the second index
modulo N. -/
def ncoOutput (p : Params) (phase : Pattern) : Pattern :=
  let idx := tableIndex p phase
  mean p ((memRead p.table idx 1).headD 0) ((memRead p.table (idx + 1) 1).headD 0)

/-! ### DAC and meter (R98, R223, R256, R259, R260) -/

/-- The signed-to-offset conversion (R98, R224): `p XOR 2^(b-1)` iff SIGNED. -/
def offsetBinary (p : Params) (v : Pattern) : Pattern :=
  if p.signed then v ^^^ 2 ^ (p.bits - 1) else v

/-- The modulation sum (R223): the low b bits of ACC plus R, in b+1 bits. -/
def modSum (p : Params) (acc r : Pattern) : Pattern := trunc p.bits acc + r

/-- The output pin, bit b of ACC (R226). -/
def pinOf (p : Params) (acc : Pattern) : Bool := acc.testBit p.bits

/-- The rectifier (R256). -/
def rectify (p : Params) (v : Pattern) : Pattern :=
  if p.signed then (signedVal p.bits v).natAbs else v

/-- LEVEL: the number of thresholds not exceeding MAG (R260). -/
def levelOf (th : List Nat) (mag : Pattern) : Nat := th.countP fun t => decide (t ≤ mag)

/-- LIT: bit s is `MAG >= TH[s]` (R259). -/
def litOf : List Nat → Pattern → Nat
  | [], _ => 0
  | t :: ts, mag => (decide (t ≤ mag)).toNat + 2 * litOf ts mag

/-- Byte `i` of FB (R69, R284). -/
def feedbackByte (fb : BitVec 32) (i : BitVec 2) : Byte := byteAt fb.toNat i.toNat

end Sys2Proof.Machine
end

