-- ==== Sys2Proof/Machine/Setup.lean ====
section
/-! DEFINITION. Machine/Setup: the configuration-time functions CFG.RDIV, CFG.TABLE, CFG.LOGSCALE, CFG.FB and
CFG.CHECK (R112), in exact arithmetic (R9 notation, D4), and the reset values (R341). -/

namespace Sys2Proof

/-! ### The names and codes of the errors (R316) -/

/-- The code column of R316. -/
def ErrorName.code : ErrorName → Nat
  | .eRate => 1
  | .eBitDepth => 2
  | .eBandwidth => 3
  | .eConfig => 4
  | .framingViolation => 5

/-- The kind column of R316: fatal at construction, or else raised at run time and recovered. -/
def ErrorName.fatal : ErrorName → Bool
  | .eRate => true
  | .eBitDepth => true
  | .eBandwidth => true
  | .eConfig => true
  | .framingViolation => false

/-- The name of a configuration error. -/
def ConfigError.name : ConfigError → ErrorName
  | .eRate _ _ _ _ _ => .eRate
  | .eBitDepth _ => .eBitDepth
  | .eBandwidth _ _ => .eBandwidth
  | .eConfig _ _ => .eConfig

/-- The code of a configuration error. -/
def ConfigError.code (e : ConfigError) : Nat := e.name.code

end Sys2Proof

namespace Sys2Proof.Machine

/-- `round`: to the nearest integer, ties to even (00_scope.md section 4, D3). -/
def roundHalfEven (x : Rat) : Int :=
  let f := x.floor
  let d := x - f
  if d < 1 / 2 then f
  else if 1 / 2 < d then f + 1
  else if f % 2 = 0 then f else f + 1

/-! ### CFG.RDIV (R121 to R124) -/

/-- Step 1: `cycles = round(master_hz / target_hz)` (R121). -/
def dividerCycles (masterHz targetHz : Rat) : Nat := (roundHalfEven (masterHz / targetHz)).toNat

/-- The deviation of a divisor, as a fraction of the target (R122). -/
def deviation (masterHz targetHz : Rat) (cycles : Nat) : Rat := |masterHz / cycles - targetHz| / targetHz

/-- CFG.RDIV: the divisor, or E_RATE when it is below 1 (R124 (a)) or deviates by more than `maxPpm` (R122). -/
def cfgRdiv (which : Divider) (masterHz targetHz maxPpm : Rat) : Except ConfigError Nat :=
  let cycles := dividerCycles masterHz targetHz
  if cycles = 0 then .error (.eRate which masterHz targetHz 0 none)
  else
    let dev := deviation masterHz targetHz cycles
    if maxPpm < dev * 1000000 then .error (.eRate which masterHz targetHz cycles (some dev))
    else .ok cycles

/-! ### CFG.TABLE (R141) -/

/-- `compare (p/q) (cos (2*pi*i / 2^k))` for `q > 0`, exactly, by the double-angle identity: for both sides of one
sign, `p/q` against `cos x` is `2*(p/q)^2 - 1` against `cos 2x` (log entry 13). -/
def cosCompare : Nat → Nat → Int → Nat → Ordering
  | 0, _, p, q => compare p (q : Int)
  | 1, i, p, q => if i % 2 = 0 then compare p (q : Int) else compare p (-(q : Int))
  | k + 2, i, p, q =>
    let quarter := 2 ^ k
    let j := i % 2 ^ (k + 2)
    if j = quarter ∨ j = 3 * quarter then compare p 0
    else if j < quarter ∨ 3 * quarter < j then
      if p ≤ 0 then .lt else cosCompare (k + 1) j (2 * p * p - (q : Int) * q) (q * q)
    else
      if 0 ≤ p then .gt else (cosCompare (k + 1) j (2 * p * p - (q : Int) * q) (q * q)).swap

/-- The largest `a + x` with `x < 2^n` that satisfies `ok`, for an `ok` that holds at `a` and is downward
closed. -/
def searchLargest (ok : Nat → Bool) : Nat → Nat → Nat
  | 0, a => a
  | n + 1, a => searchLargest ok n (if ok (a + 2 ^ n) then a + 2 ^ n else a)

/-- Is `p/q <= cos (2*pi*i / 2^k)`? -/
def cosAtLeast (k i : Nat) (p : Int) (q : Nat) : Bool := cosCompare k i p q != .gt

/-- Does phase point `i` of `2^k` lie where the cosine is negative? -/
def cosNegative (k i : Nat) : Bool :=
  let j := i % 2 ^ k
  decide (2 ^ k < 4 * j ∧ 4 * j < 3 * 2 ^ k)

/-- One signed entry (R141): `trunc(cos(2*pi*i/N) * (2^(b-1) - 1) * GAIN)`, `N = 2^k`. A negative entry is minus the
entry half a period away. -/
def tableEntrySigned (b k : Nat) (gain : Rat) (i : Nat) : Int :=
  let full := (2 ^ (b - 1) - 1) * gain.num.toNat
  let magnitude (j : Nat) : Nat :=
    if full = 0 then 0
    else searchLargest (fun t => cosAtLeast k j ((t * gain.den : Nat) : Int) full) (b - 1) 0
  if cosNegative k i then -(magnitude (i + 2 ^ (k - 1)) : Int) else (magnitude i : Int)

/-- One unsigned entry (R141): `trunc((cos(2*pi*i/N) + 1) / 2 * (2^b - 1) * GAIN)`. -/
def tableEntryUnsigned (b k : Nat) (gain : Rat) (i : Nat) : Nat :=
  let full := (2 ^ b - 1) * gain.num.toNat
  if full = 0 then 0
  else searchLargest (fun t => cosAtLeast k i (((2 * t * gain.den : Nat) : Int) - (full : Int)) full) b 0

/-- CFG.TABLE (R141): the `2^k` entries as b-bit patterns. -/
def cfgTable (b k : Nat) (gain : Rat) (signed : Bool) : List Nat :=
  (List.range (2 ^ k)).map fun i =>
    if signed then patternOf b (tableEntrySigned b k gain i) else tableEntryUnsigned b k gain i

/-! ### CFG.LOGSCALE (R258) -/

/-- `TH[s]` in the integer form of R258: the largest T with `T^G * G^(G-s) <= M^G`, `M = 2^(b-1) - 1`. -/
def threshold (g b s : Nat) : Nat :=
  searchLargest (fun t => decide (t ^ g * g ^ (g - s) ≤ (2 ^ (b - 1) - 1) ^ g)) (b - 1) 0

/-- CFG.LOGSCALE: the thresholds. -/
def cfgLogscale (g b : Nat) : List Nat := (List.range g).map (threshold g b)

/-! ### CFG.FB (R281, R282) -/

/-- `FB = round(SAMPLE_RATE_HZ / 8000 * 2^FB_SHIFT)`, before the range check. -/
def cfgFb (sampleRateHz : Rat) (fbShift : Nat) : Nat := (roundHalfEven (sampleRateHz / 8000 * 2 ^ fbShift)).toNat

/-! ### CFG.CHECK (R301 to R304, R310, R345) -/

/-- Refuse with the error unless the condition holds. -/
def demand (ok : Bool) (e : ConfigError) : Except ConfigError Unit := if ok then .ok () else .error e

/-- BIT_DEPTH in 8, 16, 24, 32 (R302). -/
def checkDepth (cfg : Config) : Except ConfigError BitDepth :=
  if cfg.bitDepth = 8 then .ok .d8
  else if cfg.bitDepth = 16 then .ok .d16
  else if cfg.bitDepth = 24 then .ok .d24
  else if cfg.bitDepth = 32 then .ok .d32
  else .error (.eBitDepth cfg.bitDepth)

/-- The first channel whose ACC_INIT is not below `2^(b+1)`, with that value. -/
def firstBadAcc (b : Nat) : Nat → List Nat → Option (Nat × Nat)
  | _, [] => none
  | c, a :: rest => if a < 2 ^ (b + 1) then firstBadAcc b (c + 1) rest else some (c, a)

/-- The parameter checks of R304, in its order. What E_CONFIG records of ACC_INIT is a DESIGN CHOICE (log entry 14): the
first channel out of range with its value, and before it a count other than the channels, a refusal that R304 does not
list. -/
def checkParams (cfg : Config) (d : BitDepth) : Except ConfigError Unit := do
  demand (decide (2 ^ cfg.tableLength.log2 = cfg.tableLength)) (.eConfig .tableLength cfg.tableLength)
  demand (decide (1 ≤ cfg.phiBits ∧ cfg.tableLength.log2 ≤ cfg.phiBits)) (.eConfig .phiBits cfg.phiBits)
  demand (decide (0 ≤ cfg.gain ∧ cfg.gain ≤ 1)) (.eConfig .gain cfg.gain)
  demand (decide (1 ≤ cfg.channels) && (!cfg.hasMux || cfg.channels == 2)) (.eConfig .channels cfg.channels)
  demand (decide (1 ≤ cfg.segments)) (.eConfig .segments cfg.segments)
  demand (decide (0 < cfg.masterHz)) (.eConfig .masterHz cfg.masterHz)
  demand (decide (0 < cfg.sampleRateHz)) (.eConfig .sampleRateHz cfg.sampleRateHz)
  demand (decide (0 < cfg.pulseRateHz)) (.eConfig .pulseRateHz cfg.pulseRateHz)
  demand (decide (0 ≤ cfg.pulseMaxPpm)) (.eConfig .pulseMaxPpm cfg.pulseMaxPpm)
  demand (decide (cfg.fbShift = 16 ∨ cfg.fbShift = 17)) (.eConfig .fbShift cfg.fbShift)
  demand (decide (cfg.fifoDepth = 16)) (.eConfig .fifoDepth cfg.fifoDepth)
  demand (decide (cfg.phaseInit < 2 ^ cfg.phiBits)) (.eConfig .phaseInit cfg.phaseInit)
  demand (decide (cfg.accInit.length = cfg.channels)) (.eConfig .accInitCount cfg.accInit.length)
  match firstBadAcc d.bits 0 cfg.accInit with
  | none => .ok ()
  | some (c, a) => .error (.eConfig (.accInit c) (a : Nat))

/-- The bytes needed per microframe (R303): `ceil(SAMPLE_RATE_HZ / 8000) * CHANNELS * SUBSLOT_SIZE`. -/
def requiredBytes (cfg : Config) (d : BitDepth) : Nat :=
  (cfg.sampleRateHz / 8000).ceil.toNat * cfg.channels * d.subslot

/-- The constants of the machine that a checked configuration describes. -/
def paramsOf (cfg : Config) (d : BitDepth) (cyclesSample cyclesPulse : Nat) : Params where
  depth := d
  signed := cfg.signed
  channels := cfg.channels
  phiBits := cfg.phiBits
  indexBits := cfg.tableLength.log2
  segments := cfg.segments
  hasMux := cfg.hasMux
  hasDac := cfg.hasDac
  cyclesSample := cyclesSample
  cyclesPulse := cyclesPulse
  table := cfgTable d.bits cfg.tableLength.log2 cfg.gain cfg.signed
  th := cfgLogscale cfg.segments d.bits
  fb := BitVec.ofNat 32 (cfgFb cfg.sampleRateHz cfg.fbShift)

/-- The steps of R345 in order, up to the constants; the first failure is the answer (R310). The range check of a
DIV_INIT needs its divider's `cycles` and stands right after it (log entry 14). -/
def setupParams (cfg : Config) : Except ConfigError Params := do
  let d ← checkDepth cfg
  checkParams cfg d
  let cs ← cfgRdiv .sample cfg.masterHz cfg.sampleRateHz 0
  demand (!cfg.hasDac || decide (3 ≤ cs)) (.eConfig .sampleCycles cs)
  demand (decide (cfg.divInitSample < cs)) (.eConfig .divInitSample cfg.divInitSample)
  let cp ← cfgRdiv .pulse cfg.masterHz cfg.pulseRateHz cfg.pulseMaxPpm
  demand (decide (cfg.divInitPulse < cp)) (.eConfig .divInitPulse cfg.divInitPulse)
  demand (decide (requiredBytes cfg d ≤ cfg.maxPacketSize)) (.eBandwidth (requiredBytes cfg d) cfg.maxPacketSize)
  demand (decide (cfgFb cfg.sampleRateHz cfg.fbShift < 2 ^ 32))
    (.eConfig .feedback (cfgFb cfg.sampleRateHz cfg.fbShift))
  return paramsOf cfg d cs cp

/-! ### Reset (R341) -/

/-- An empty FIFO with `last = 0` (R63, R341). -/
def Fifo.reset : Fifo := { items := [], last := 0 }

/-- The reset values of R341. -/
def resetRegs (cfg : Config) (p : Params) : Regs where
  cntSample := cfg.divInitSample
  cntPulse := cfg.divInitPulse
  phase := cfg.phaseInit
  dstate := .byte 0
  chan := 0
  sub := List.replicate (p.subslot - 1) 0
  sel := false
  off := 0
  acc := cfg.accInit
  r := List.replicate p.channels 0
  seq := .wait
  h := List.replicate p.channels 0
  q := List.replicate p.channels Fifo.reset
  vq := Fifo.reset
  mag := 0

/-- The configuration of V-CFG-11 (95_test_vectors.md), with GAIN, FB_SHIFT, DIV_INIT and PHASE_INIT at the
defaults of R9 and R341 and ACC_INIT at 0: the one State.reset is built from (log entries 9 and 10). -/
def defaultConfig : Config where
  bitDepth := 24
  signed := true
  channels := 2
  phiBits := 24
  tableLength := 256
  gain := 1
  masterHz := 60000000
  sampleRateHz := 48000
  pulseRateHz := 30000000
  pulseMaxPpm := 0
  segments := 8
  fifoDepth := 16
  fbShift := 17
  maxPacketSize := 1024
  divInitSample := 0
  divInitPulse := 0
  phaseInit := 0
  accInit := [0, 0]
  hasMux := true
  hasDac := true

end Sys2Proof.Machine
end

