-- ==== Sys2Proof/Machine/State.lean ====
section
/-! DEFINITION. Machine/State: the state of the machine, its state after reset, the reasons a step can stop. -/

namespace Sys2Proof.Machine

/-- The machine: its constants (R20), its registers before the tick (`regs`, R42), and four fields of the model's
own: the registers after the tick while the tick runs (`next`, log entry 4), what the output ports showed
during the last tick (`out`, log entry 8), the rest of the stimulus trace (`stimulus`, R111) and the
number of ticks performed (`tick`, log entry 3). -/
structure State where
  par : Params
  regs : Regs
  next : Regs
  out : Outputs
  stimulus : List Inputs
  tick : Nat
deriving DecidableEq, Repr

/-- The machine stops with a fault: never. No run-time condition of this hardware is an error (R305); the framing
violation is taken as a next state (R306). -/
inductive Fault where
deriving DecidableEq, Repr

/-- Why a step or an operation answers with no next state. -/
inductive Refusal where
  /-- The instruction's arm of `exec` has no meaning yet. Raised by `exec` only. Safe. -/
  | notModelled (mnemonic : String)
  /-- Raised by a meaning: the control word of the block is not the instruction's, so the operation does not fire in
  this state (R100: the control word selects exactly one operation). A step never raises it. Safe. -/
  | notSelected (i : Instr)
  /-- Raised by a step: a register of the block holds a code that is never reached (R109 (d): `DSTATE` or `OFF` at
  or above S, ERROR with S = 1), which has no meaning. Safe. -/
  | unreachableCode (b : Block)
  /-- Raised by a step: the block's control word names no operation (R109 (d)). Safe. -/
  | illegalWord (e : DecodeError)
deriving DecidableEq, Repr

/-- A machine with the given constants and registers, no tick performed, no stimulus placed. -/
def State.initial (p : Params) (r : Regs) : State where
  par := p
  regs := r
  next := r
  out := {}
  stimulus := []
  tick := 0

/-- Construction, which is also the only reset (R340, R345): the checks in order, then every register at its reset
value (R341). -/
def construct (cfg : Config) : Except ConfigError State := do
  let p ← setupParams cfg
  return State.initial p (resetRegs cfg p)

/-- The machine right after reset, for the configuration of V-CFG-11: sample divider 1250, pulse divider 2 (log
entries 9 and 10). It is what `construct` answers for that configuration. -/
def State.reset : State :=
  let p := paramsOf defaultConfig .d24 1250 2
  State.initial p (resetRegs defaultConfig p)

end Sys2Proof.Machine
end

