-- ==== Sys2Proof/Machine/Ports.lean ====
section
/-! DEFINITION. Machine/Ports: the input ports as the blocks read them, at their widths (R43). -/

namespace Sys2Proof.Machine

/-- The inputs of the tick: the head of the stimulus trace, and a free value where the trace has ended (log
entry 3). -/
def State.inp (s : State) : Inputs := s.stimulus.headD (Config.freeInputs s.tick)

/-- One value per channel, channel 0 first. -/
def State.perChannel {α : Type} (s : State) (f : Nat → α) : List α := (List.range s.par.channels).map f

/-- NCO `phase_increment`, PHI_BITS wide (R33, R151). -/
def State.phaseIncrement (s : State) : Pattern := trunc s.par.phiBits s.inp.phaseIncrement

/-- DMX `out_ready[c]`. -/
def State.dmxReady (s : State) (c : Nat) : Bool := s.inp.dmxReady.getD c false

/-- MUX `s_valid[c]`. -/
def State.muxValid (s : State) (c : Nat) : Bool := s.inp.muxValid.getD c false

/-- MUX `s_sample[c]`, b bits. -/
def State.muxSample (s : State) (c : Nat) : Pattern := trunc s.par.bits (s.inp.muxSample.getD c 0)

/-- SEQ `q_valid[c]`. -/
def State.qValid (s : State) (c : Nat) : Bool := s.inp.qValid.getD c false

/-- SEQ `q_sample[c]`, b bits. -/
def State.qSample (s : State) (c : Nat) : Pattern := trunc s.par.bits (s.inp.qSample.getD c 0)

/-- VU `in_sample`, b bits. -/
def State.vuSample (s : State) : Pattern := trunc s.par.bits s.inp.vuSample

/-- `ACC[c]` before the tick. -/
def State.accOf (s : State) (c : Nat) : Pattern := s.regs.acc.getD c 0

/-- `R[c]` before the tick. -/
def State.rOf (s : State) (c : Nat) : Pattern := s.regs.r.getD c 0

/-- `H[c]` before the tick. -/
def State.hOf (s : State) (c : Nat) : Pattern := s.regs.h.getD c 0

/-- `Q[c]` before the tick. -/
def State.qOf (s : State) (c : Nat) : Fifo := s.regs.q.getD c Fifo.reset

end Sys2Proof.Machine
end

