-- ==== Sys2Proof/Machine/Flags.lean ====
section
/-! DEFINITION. Machine/Flags: the one-bit conditions of R32 and the control word of each block (R101 to R108). -/

namespace Sys2Proof.Machine

/-- `FifoFull(q)` (R64). -/
def Fifo.isFull (q : Fifo) : Bool := q.items.length == 16

/-- `FifoEmpty(q)` (R64). -/
def Fifo.isEmpty (q : Fifo) : Bool := q.items.isEmpty

/-- The counter of a divider, before the tick. -/
def State.cnt (s : State) : Divider → Nat
  | .sample => s.regs.cntSample
  | .pulse => s.regs.cntPulse

/-- `cycles` of a divider. -/
def Params.cycles (p : Params) : Divider → Nat
  | .sample => p.cyclesSample
  | .pulse => p.cyclesPulse

/-- `pulse` of a divider: 1 on the tick with `CNT = 0` (R32, R125). -/
def State.pulse (s : State) (d : Divider) : Bool := s.cnt d == 0

/-- `sample_tick`: the pulse of the sample-rate divider (R129, R262). -/
def State.sampleTick (s : State) : Bool := s.pulse .sample

/-- `stb`: the pulse of the pulse-rate divider (R129, R236). -/
def State.stb (s : State) : Bool := s.pulse .pulse

/-- `update`: 1 during the sequencer's LATCH tick (R32, R233). -/
def State.update (s : State) : Bool := s.regs.seq == .latch

/-- `anyready`: the OR of the channels' `out_ready` (R171). -/
def State.anyReady (s : State) : Bool := (s.perChannel s.dmxReady).any id

/-- `go = in_valid AND anyready` (R171). -/
def State.go (s : State) : Bool := s.inp.dmxValid && s.anyReady

/-- The exception that the last tick raised, by its name in R316: FramingViolation (code 5) exactly when the strobe
`framing_error` was 1 (R184, R306). -/
def State.raised (s : State) : Option ErrorName := if s.out.framingError then some .framingViolation else none

/-- `e`: DSTATE = ERROR (R103). -/
def State.inError (s : State) : Bool := s.regs.dstate == .error

/-- `DSTATE = BYTEk`. -/
def State.atByte (s : State) (k : Nat) : Bool :=
  match s.regs.dstate with
  | .byte j => j.val == k
  | .error => false

/-- Does DSTATE hold a code that the machine can reach (R103, R109 (d), R183)? -/
def Params.dstateReachable (p : Params) : DState → Bool
  | .byte k => decide (k.val < p.subslot)
  | .error => decide (1 < p.subslot)

/-- Does OFF hold a code that the machine can reach (R109 (d))? -/
def Params.offReachable (p : Params) (off : BitVec 2) : Bool := decide (off.toNat < p.subslot)

/-- `l` of format MUX: OFF = S-1 (R104). -/
def State.atLastOffset (s : State) : Bool := s.regs.off.toNat == s.par.subslot - 1

/-- The two bits of the stored SEQ state: WAIT = 0, CHANNEL_READ = 1, LATCH = 2 (R106). -/
def SeqState.codeBits : SeqState → List Bool
  | .wait => [false, false]
  | .channelRead => [false, true]
  | .latch => [true, false]

/-- The control word of a block, from the state before the tick and the inputs during it (R100 to R108). None where
a register of the block holds an unreachable code (R109 (d)) or the block is not built. -/
def State.controlWord (s : State) : Block → Option CtrlWord
  | .rdiv d => some (packBits [s.pulse d])
  | .nco => some (packBits [s.inp.ncoReady])
  | .dmx =>
    if s.par.dstateReachable s.regs.dstate then
      some (packBits [s.inError, s.atByte (s.par.subslot - 1), s.atByte 0, s.go, s.inp.dmxFirst])
    else none
  | .mux =>
    if s.par.hasMux && s.par.offReachable s.regs.off then some (packBits [s.inp.muxReady, s.atLastOffset])
    else none
  | .dsm => if s.par.hasDac then some (packBits [s.update, s.stb]) else none
  | .seq => if s.par.hasDac then some (packBits (s.regs.seq.codeBits ++ [s.sampleTick])) else none
  | .vui => some (packBits [s.inp.vuValid, s.regs.vq.isFull])
  | .vuo => some (packBits [s.sampleTick, s.regs.vq.isEmpty])
  | .fb => some (packBits [s.inp.fbIndex.getLsbD 1, s.inp.fbIndex.getLsbD 0])

end Sys2Proof.Machine
end

