-- ==== Sys2Proof/Machine/Ops.lean ====
section
/-! DEFINITION. Machine/Ops: the shared operations: firing, register writes, port drives, FIFO moves, entering and
leaving the framing violation, the begin and the end of a tick, and fetching an operation. -/

namespace Sys2Proof.Machine

/-! ### Firing and writing -/

/-- An operation fires iff its word is its block's control word (R100). -/
def State.perform (s : State) (i : Instr) (t : State) : Host.Outcome State Fault Refusal :=
  if s.controlWord i.block = some i.encode then .next t else .refused (.notSelected i)

/-- `X <- v`: a write gives a value after the tick (00_scope.md section 4), so it goes to `next`. -/
def State.write (s : State) (f : Regs → Regs) : State := { s with next := f s.next }

/-! ### FIFOs (R64 to R68) -/

/-- Append at the tail: `FifoPush` on a FIFO with room before the tick (R65). -/
def Fifo.append (q : Fifo) (v : Pattern) : Fifo := { q with items := q.items ++ [v] }

/-- `FifoPop` (R66): the head leaves and is held in `last`; nothing happens to an empty queue. -/
def Fifo.pop (q : Fifo) : Fifo :=
  match q.items with
  | [] => q
  | x :: xs => { items := xs, last := x }

/-- The read-side payload (R68): the head, or the value last popped. -/
def Fifo.payload (q : Fifo) : Pattern := q.items.headD q.last

/-! ### Port drives -/

/-- RDIV drives `pulse` (R125). -/
def State.driveRdiv (s : State) (d : Divider) : State :=
  match d with
  | .sample => { s with out := { s.out with pulseSample := s.pulse .sample } }
  | .pulse => { s with out := { s.out with pulseMod := s.pulse .pulse } }

/-- A divider's counter takes a value. -/
def State.writeCnt (s : State) (d : Divider) (v : Nat) : State :=
  match d with
  | .sample => s.write fun n => { n with cntSample := v }
  | .pulse => s.write fun n => { n with cntPulse := v }

/-- NCO drives `out_valid = 1` (R146) and the output sample of PHASE before the tick (R145). -/
def State.driveNco (s : State) : State :=
  { s with out := { s.out with ncoValid := true, ncoSample := ncoOutput s.par s.regs.phase } }

/-- DMX drives its outputs (R172, R179, R180, R184): `emit` is the channel and the sample emitted on this tick, if
any. -/
def State.driveDmx (s : State) (inReady : Bool) (emit : Option (Nat × Pattern)) (violation : Bool) : State :=
  let outValid := s.perChannel fun c => emit.any fun e => e.1 == c
  { s with out := { s.out with
      dmxInReady := inReady
      dmxConsumed := s.inp.dmxValid && inReady
      dmxOutValid := outValid
      dmxOutSample := (emit.map fun e => e.2).getD 0
      dmxHandoff := s.perChannel fun c => outValid.getD c false && s.dmxReady c
      framingError := violation } }

/-- The channel MUX is sending, 0 or 1 (R27). -/
def State.muxChannel (s : State) : Nat := s.regs.sel.toNat

/-- MUX's transparent buffer (R202). -/
def State.muxBuffer (s : State) : Nat := packSample s.par.depth (s.muxSample s.muxChannel)

/-- MUX drives `out_valid = 1`, byte OFF of the buffer (R203) and, when `pulse`, `s_ready` to the channel being sent
(R206, R207). -/
def State.driveMux (s : State) (pulse : Bool) : State :=
  { s with out := { s.out with
      muxOutValid := true
      muxOutByte := byteAt s.muxBuffer s.regs.off.toNat
      muxSReady := [pulse && !s.regs.sel, pulse && s.regs.sel]
      muxHandoff := [pulse && !s.regs.sel && s.muxValid 0, pulse && s.regs.sel && s.muxValid 1] } }

/-- DSM drives the output pins, `out[c] = ACC[c][b]` (R226). -/
def State.driveDac (s : State) : State :=
  { s with out := { s.out with dacOut := s.perChannel fun c => pinOf s.par (s.accOf c) } }

/-- SEQ drives `update` (R32) and `q_ready[c] = not FifoFull(Q[c])` (R237). -/
def State.driveSeq (s : State) : State :=
  { s with out := { s.out with update := s.update, qReady := s.perChannel fun c => !(s.qOf c).isFull } }

/-- The meter drives `in_ready = not FifoFull(VQ)` (R254). -/
def State.driveVuIn (s : State) : State :=
  { s with out := { s.out with vuInReady := !s.regs.vq.isFull } }

/-- The meter drives LIT and LEVEL of MAG before the tick (R259, R260). -/
def State.driveVuOut (s : State) : State :=
  { s with out := { s.out with lit := litOf s.par.th s.regs.mag, level := levelOf s.par.th s.regs.mag } }

/-! ### The demultiplexer's shared pieces -/

/-- The S bytes of the subframe that the byte on the input completes, in arrival order (R93, R176). -/
def State.subframe (s : State) : List Byte :=
  ((List.range (s.par.subslot - 1)).map fun k => s.regs.sub.getD k 0) ++ [s.inp.dmxByte]

/-- The first byte of a subframe of channel `ch` is stored: `CHAN <- ch; SUB.byte[0] <- in_byte; DSTATE <- BYTE1`
(R174 with S > 1, R178). -/
def State.startSubframe (s : State) (ch : Nat) : State :=
  (s.driveDmx true none false).write fun n =>
    { n with chan := ch, sub := s.regs.sub.set 0 s.inp.dmxByte, dstate := .byte 1 }

/-- TAKING THE EXCEPTION FramingViolation, code 5 (R306, R307, R316): `DSTATE <- ERROR`, `in_ready = 0` (the beat stays on the input),
`framing_error = 1`, no `out_valid[c]`; nothing is saved and every other register is untouched. -/
def State.raiseFramingViolation (s : State) : State :=
  (s.driveDmx false none true).write fun n => { n with dstate := .error }

/-- RETURN from the framing violation (R308): the beat is taken as byte 0 of channel 0's new subframe. -/
def State.returnFromViolation (s : State) : State := s.startSubframe 0

/-! ### The DAC's shared pieces -/

/-- Every channel's modulation addition (R223), from the values before the tick. -/
def State.modulated (s : State) : List Pattern := s.perChannel fun c => modSum s.par (s.accOf c) (s.rOf c)

/-- Every channel's `conv(sample[c])`, `sample[c] = H[c]` before the tick (R224). -/
def State.latched (s : State) : List Pattern := s.perChannel fun c => offsetBinary s.par (s.hOf c)

/-! ### A tick (R70) -/

/-- The blocks that are built, one operation each on every tick. -/
def State.blocks (s : State) : List Block :=
  [.rdiv .sample, .rdiv .pulse, .nco, .dmx] ++ (if s.par.hasMux then [.mux] else []) ++
    (if s.par.hasDac then [.dsm, .seq] else []) ++ [.vui, .vuo, .fb]

/-- The tick begins: no register has a new value yet, no port is driven. -/
def State.beginTick (s : State) : State := { s with next := s.regs, out := {} }

/-- The write side of `Q[c]` (R237): a sample offered to a queue that had room before the tick goes in behind
whatever the tick's pop left (R65, R67). -/
def State.pushQueues (s : State) : State :=
  if s.par.hasDac then
    s.write fun n =>
      { n with q := s.perChannel fun c =>
          let after := n.q.getD c Fifo.reset
          if s.qValid c && !(s.qOf c).isFull then after.append (s.qSample c) else after }
  else s

/-- The tick ends: all writes take effect together (R70) and the trace moves on. -/
def State.endTick (s : State) : State :=
  let t := s.pushQueues
  { t with regs := t.next, stimulus := t.stimulus.tail, tick := t.tick + 1 }

/-- The operation that a block's control word selects on this tick (R100). -/
def State.fetch (s : State) (b : Block) : Except Refusal Instr :=
  match s.controlWord b with
  | none => .error (.unreachableCode b)
  | some w =>
    match decode b w with
    | .ok i => .ok i
    | .error e => .error (.illegalWord e)

end Sys2Proof.Machine
end

