-- ==== Sys2Proof/Machine/DeltaSigma.lean ====
section
/-! DEFINITION. Machine/DeltaSigma: the four operations of the modulator channels (44_delta_sigma_dac.md section 1). -/

namespace Sys2Proof.Machine

/-- DSM.HOLD (R222): no register changes. -/
def execDsmHold (s : State) : Host.Outcome State Fault Refusal :=
  s.perform .dsmHold s.driveDac

/-- DSM.MOD (R223): every channel's `ACC[c] <- zext(ACC[c][b-1:0]) + zext(R[c])`. -/
def execDsmMod (s : State) : Host.Outcome State Fault Refusal :=
  s.perform .dsmMod (s.driveDac.write fun n => { n with acc := s.modulated })

/-- DSM.UPDATE (R224): every channel's `R[c] <- conv(sample[c])`; ACC unchanged. -/
def execDsmUpdate (s : State) : Host.Outcome State Fault Refusal :=
  s.perform .dsmUpdate (s.driveDac.write fun n => { n with r := s.latched })

/-- DSM.MODUPD (R225): both, the addition with the old `R[c]`. -/
def execDsmModupd (s : State) : Host.Outcome State Fault Refusal :=
  s.perform .dsmModupd (s.driveDac.write fun n => { n with acc := s.modulated, r := s.latched })

end Sys2Proof.Machine
end

