-- ==== Sys2Proof/Machine/Demux.lean ====
section
/-! DEFINITION. Machine/Demux: the six operations of the StreamFramer demultiplexer (42_stream_demux.md). -/

namespace Sys2Proof.Machine

/-- DMX.HOLD (R173): no register changes, nothing emitted, `in_ready = anyready`. -/
def execDmxHold (e l k f : Bool) (s : State) : Host.Outcome State Fault Refusal :=
  s.perform (.dmxHold e l k f) (s.driveDmx s.anyReady none false)

/-- DMX.START (R174): the channel resets on a marker and else moves on modulo C; the byte is byte 0 of the new
subframe. With S = 1 the byte is the whole subframe and is emitted on the new channel (R183). -/
def execDmxStart (l f : Bool) (s : State) : Host.Outcome State Fault Refusal :=
  let ch := if f then 0 else (s.regs.chan + 1) % s.par.channels
  s.perform (.dmxStart l f)
    (if s.par.subslot = 1 then
      (s.driveDmx true (some (ch, s.inp.dmxByte.toNat)) false).write fun n => { n with chan := ch, dstate := .byte 0 }
    else s.startSubframe ch)

/-- DMX.MID (R175): `SUB.byte[k] <- in_byte; DSTATE <- BYTE(k+1)`. -/
def execDmxMid (s : State) : Host.Outcome State Fault Refusal :=
  s.perform .dmxMid
    (match s.regs.dstate with
    | .byte k =>
      (s.driveDmx true none false).write fun n =>
        { n with sub := s.regs.sub.set k.val s.inp.dmxByte, dstate := .byte (k + 1) }
    | .error => s)

/-- DMX.LAST (R176): the assembled sample is emitted on channel CHAN; `DSTATE <- BYTE0`. -/
def execDmxLast (s : State) : Host.Outcome State Fault Refusal :=
  s.perform .dmxLast
    ((s.driveDmx true (some (s.regs.chan, assemble s.par.depth s.subframe)) false).write fun n =>
      { n with dstate := .byte 0 })

/-- DMX.VIOLATE (R177): raise FramingViolation. -/
def execDmxViolate (l : Bool) (s : State) : Host.Outcome State Fault Refusal :=
  s.perform (.dmxViolate l) s.raiseFramingViolation

/-- DMX.RESYNC (R178): the byte starts channel 0's new subframe; the marker is ignored. -/
def execDmxResync (l k f : Bool) (s : State) : Host.Outcome State Fault Refusal :=
  s.perform (.dmxResync l k f) s.returnFromViolation

end Sys2Proof.Machine
end

