-- ==== Sys2Proof/Machine/Feedback.lean ====
section
/-! DEFINITION. Machine/Feedback: FB.READ (46_feedback_computer.md). -/

namespace Sys2Proof.Machine

/-- FB.READ (R284): `fb_byte = FB[8*fb_index+7 : 8*fb_index]`; no state changes. -/
def execFbRead (i : BitVec 2) (s : State) : Host.Outcome State Fault Refusal :=
  s.perform (.fbRead i) { s with out := { s.out with fbByte := feedbackByte s.par.fb i } }

end Sys2Proof.Machine
end

