-- ==== Sys2Proof/Machine/Meter.lean ====
section
/-! DEFINITION. Machine/Meter: the six operations of the LevelMeter (45_level_meter.md). -/

namespace Sys2Proof.Machine

/-- VU.PUSH (R251): `FifoPush(VQ, in_sample)`, behind whatever a pop of the same tick leaves (R67). -/
def execVuPush (s : State) : Host.Outcome State Fault Refusal :=
  s.perform .vuPush (s.driveVuIn.write fun n => { n with vq := n.vq.append s.vuSample })

/-- VU.REJECT (R252): `in_ready = 0`, VQ is not written. -/
def execVuReject (s : State) : Host.Outcome State Fault Refusal :=
  s.perform .vuReject s.driveVuIn

/-- VU.NOPUSH (R253): VQ is not written. -/
def execVuNopush (n : Bool) (s : State) : Host.Outcome State Fault Refusal :=
  s.perform (.vuNopush n) s.driveVuIn

/-- VU.POP (R255): `v = FifoPop(VQ); MAG <- absval(v)`. -/
def execVuPop (s : State) : Host.Outcome State Fault Refusal :=
  s.perform .vuPop
    (s.driveVuOut.write fun n => { n with vq := n.vq.pop, mag := rectify s.par s.regs.vq.payload })

/-- VU.STARVE (R257): nothing to pop, MAG holds. -/
def execVuStarve (s : State) : Host.Outcome State Fault Refusal :=
  s.perform .vuStarve s.driveVuOut

/-- VU.KEEP (R263): no sample tick, MAG and VQ hold. -/
def execVuKeep (m : Bool) (s : State) : Host.Outcome State Fault Refusal :=
  s.perform (.vuKeep m) s.driveVuOut

end Sys2Proof.Machine
end

