-- ==== Sys2Proof/Machine/Mux.lean ====
section
/-! DEFINITION. Machine/Mux: the three operations of the StreamFramer multiplexer (43_stream_mux.md). -/

namespace Sys2Proof.Machine

/-- MUX.HOLD (R204): no register changes, no `s_ready`. -/
def execMuxHold (l : Bool) (s : State) : Host.Outcome State Fault Refusal :=
  s.perform (.muxHold l) (s.driveMux false)

/-- MUX.BYTE (R205): the transport takes the byte; `OFF <- OFF + 1`. -/
def execMuxByte (s : State) : Host.Outcome State Fault Refusal :=
  s.perform .muxByte ((s.driveMux false).write fun n => { n with off := s.regs.off + 1 })

/-- MUX.WRAP (R206): the transport takes the last byte; `s_ready` to the channel just sent; `OFF <- 0`,
`SEL <- 1 - SEL`. -/
def execMuxWrap (s : State) : Host.Outcome State Fault Refusal :=
  s.perform .muxWrap ((s.driveMux true).write fun n => { n with off := 0, sel := !s.regs.sel })

end Sys2Proof.Machine
end

