-- ==== Sys2Proof/Machine/Oscillator.lean ====
section
/-! DEFINITION. Machine/Oscillator: NCO.ADVANCE and NCO.HOLD (41_oscillator.md). -/

namespace Sys2Proof.Machine

/-- NCO.ADVANCE (R147): the consumer takes f(PHASE); `PHASE <- trunc(PHASE + phase_increment)`. -/
def execNcoAdvance (s : State) : Host.Outcome State Fault Refusal :=
  s.perform .ncoAdvance
    (s.driveNco.write fun n => { n with phase := trunc s.par.phiBits (s.regs.phase + s.phaseIncrement) })

/-- NCO.HOLD (R148): f(PHASE) stays on the output; no register changes. -/
def execNcoHold (s : State) : Host.Outcome State Fault Refusal :=
  s.perform .ncoHold s.driveNco

end Sys2Proof.Machine
end

