-- ==== Sys2Proof/Machine/RateDivider.lean ====
section
/-! DEFINITION. Machine/RateDivider: RDIV.RELOAD and RDIV.COUNT (40_rate_divider.md). -/

namespace Sys2Proof.Machine

/-- RDIV.RELOAD (R126): `pulse = 1; CNT <- cycles - 1`. -/
def execRdivReload (d : Divider) (s : State) : Host.Outcome State Fault Refusal :=
  s.perform (.rdivReload d) ((s.driveRdiv d).writeCnt d (s.par.cycles d - 1))

/-- RDIV.COUNT (R127): `pulse = 0; CNT <- CNT - 1`. -/
def execRdivCount (d : Divider) (s : State) : Host.Outcome State Fault Refusal :=
  s.perform (.rdivCount d) ((s.driveRdiv d).writeCnt d (s.cnt d - 1))

end Sys2Proof.Machine
end

