-- ==== Sys2Proof/Machine/Sequencer.lean ====
section
/-! DEFINITION. Machine/Sequencer: the four operations of the DAC sequencer (44_delta_sigma_dac.md section 2). -/

namespace Sys2Proof.Machine

/-- SEQ.WAIT (R230): no register changes. -/
def execSeqWait (s : State) : Host.Outcome State Fault Refusal :=
  s.perform .seqWait s.driveSeq

/-- SEQ.FIRE (R231): `SEQ <- CHANNEL_READ`. -/
def execSeqFire (s : State) : Host.Outcome State Fault Refusal :=
  s.perform .seqFire (s.driveSeq.write fun n => { n with seq := .channelRead })

/-- SEQ.READ (R232): every channel pops its queue into `H[c]`, or holds `H[c]` when the queue is empty;
`SEQ <- LATCH`. -/
def execSeqRead (t : Bool) (s : State) : Host.Outcome State Fault Refusal :=
  s.perform (.seqRead t)
    (s.driveSeq.write fun n =>
      { n with
        h := s.perChannel fun c => if (s.qOf c).isEmpty then s.hOf c else (s.qOf c).payload
        q := s.perChannel fun c => (s.qOf c).pop
        seq := .latch })

/-- SEQ.LATCH (R233): `update = 1` during the tick; `SEQ <- WAIT`. -/
def execSeqLatch (t : Bool) (s : State) : Host.Outcome State Fault Refusal :=
  s.perform (.seqLatch t) (s.driveSeq.write fun n => { n with seq := .wait })

end Sys2Proof.Machine
end

