-- ==== Sys2Proof/Machine/Dispatch.lean ====
section
/-! DEFINITION. Machine/Dispatch: one arm per operation. -/

namespace Sys2Proof.Machine

def exec (i : Instr) (s : State) : Host.Outcome State Fault Refusal :=
  match i with
  | .rdivReload d => Sys2Proof.Machine.execRdivReload d s
  | .rdivCount d => Sys2Proof.Machine.execRdivCount d s
  | .ncoAdvance => Sys2Proof.Machine.execNcoAdvance s
  | .ncoHold => Sys2Proof.Machine.execNcoHold s
  | .dmxHold e l k f => Sys2Proof.Machine.execDmxHold e l k f s
  | .dmxStart l f => Sys2Proof.Machine.execDmxStart l f s
  | .dmxMid => Sys2Proof.Machine.execDmxMid s
  | .dmxLast => Sys2Proof.Machine.execDmxLast s
  | .dmxViolate l => Sys2Proof.Machine.execDmxViolate l s
  | .dmxResync l k f => Sys2Proof.Machine.execDmxResync l k f s
  | .muxHold l => Sys2Proof.Machine.execMuxHold l s
  | .muxByte => Sys2Proof.Machine.execMuxByte s
  | .muxWrap => Sys2Proof.Machine.execMuxWrap s
  | .dsmHold => Sys2Proof.Machine.execDsmHold s
  | .dsmMod => Sys2Proof.Machine.execDsmMod s
  | .dsmUpdate => Sys2Proof.Machine.execDsmUpdate s
  | .dsmModupd => Sys2Proof.Machine.execDsmModupd s
  | .seqWait => Sys2Proof.Machine.execSeqWait s
  | .seqFire => Sys2Proof.Machine.execSeqFire s
  | .seqRead t => Sys2Proof.Machine.execSeqRead t s
  | .seqLatch t => Sys2Proof.Machine.execSeqLatch t s
  | .vuPush => Sys2Proof.Machine.execVuPush s
  | .vuReject => Sys2Proof.Machine.execVuReject s
  | .vuNopush n => Sys2Proof.Machine.execVuNopush n s
  | .vuPop => Sys2Proof.Machine.execVuPop s
  | .vuStarve => Sys2Proof.Machine.execVuStarve s
  | .vuKeep m => Sys2Proof.Machine.execVuKeep m s
  | .fbRead index => Sys2Proof.Machine.execFbRead index s

end Sys2Proof.Machine
end

