-- ==== Sys2Proof/Machine/Select.lean ====
section
/-! DEFINITION. Machine/Select: put a machine where a given operation is the one its block performs on the very next
tick (for State.withFetchWord and for witnesses; log entries 3 and 6). -/

namespace Sys2Proof.Machine

/-- Change the inputs of the next tick; where the trace has ended, start from all inputs 0. -/
def State.mapInputs (s : State) (f : Inputs → Inputs) : State :=
  { s with stimulus := f (s.stimulus.headD {}) :: s.stimulus.tail }

/-- Change the registers. -/
def State.mapRegs (s : State) (f : Regs → Regs) : State := { s with regs := f s.regs }

/-- Make a divider pulse on the next tick, or not. -/
def State.setPulse (s : State) (d : Divider) (on : Bool) : State :=
  let v := if on then 0 else if s.cnt d = 0 then s.par.cycles d - 1 else s.cnt d
  match d with
  | .sample => s.mapRegs fun r => { r with cntSample := v }
  | .pulse => s.mapRegs fun r => { r with cntPulse := v }

/-- Put the demultiplexer in ERROR (`e`), in its last byte state (`l`), in BYTE0 (`k`) or between, with a byte to
take (`g`) and its marker (`f`). -/
def State.setDmx (s : State) (e l k g f : Bool) : State :=
  let last : Fin 4 := Fin.ofNat 4 (s.par.subslot - 1)
  let d : DState := if e then .error else if k then .byte 0 else if l then .byte last else .byte 1
  (s.mapRegs fun r => { r with dstate := d }).mapInputs fun i =>
    { i with dmxValid := g, dmxFirst := f, dmxReady := if g then List.replicate s.par.channels true else i.dmxReady }

/-- Put the multiplexer at its last byte offset (`l`) or at offset 0, with the transport ready or not. -/
def State.setMux (s : State) (ready l : Bool) : State :=
  (s.mapRegs fun r => { r with off := if l then BitVec.ofNat 2 (s.par.subslot - 1) else 0 }).mapInputs fun i =>
    { i with muxReady := ready }

/-- Put the sequencer in a state. -/
def State.setSeq (s : State) (q : SeqState) : State := s.mapRegs fun r => { r with seq := q }

/-- Give the modulators `update` and `stb`. -/
def State.setDsm (s : State) (u st : Bool) : State :=
  let q := if u then SeqState.latch else if s.regs.seq = .latch then .wait else s.regs.seq
  (s.setSeq q).setPulse .pulse st

/-- Make VQ full, or not full. -/
def State.setVqFull (s : State) (full : Bool) : State :=
  if s.regs.vq.isFull = full then s
  else s.mapRegs fun r => { r with vq := { r.vq with items := if full then List.replicate 16 0 else [] } }

/-- Make VQ empty, or not empty. -/
def State.setVqEmpty (s : State) (empty : Bool) : State :=
  if s.regs.vq.isEmpty = empty then s
  else s.mapRegs fun r => { r with vq := { r.vq with items := if empty then [] else [0] } }

/-- Offer the meter a sample, or none. -/
def State.setVuValid (s : State) (v : Bool) : State := s.mapInputs fun i => { i with vuValid := v }

/-- The machine put where the operation's control word is its block's on the next tick. -/
def State.selecting (s : State) : Instr → State
  | .rdivReload d => s.setPulse d true
  | .rdivCount d => s.setPulse d false
  | .ncoAdvance => s.mapInputs fun i => { i with ncoReady := true }
  | .ncoHold => s.mapInputs fun i => { i with ncoReady := false }
  | .dmxHold e l k f => s.setDmx e l k false f
  | .dmxStart l f => s.setDmx false l true true f
  | .dmxMid => s.setDmx false false false true false
  | .dmxLast => s.setDmx false true false true false
  | .dmxViolate l => s.setDmx false l false true true
  | .dmxResync l k f => s.setDmx true l k true f
  | .muxHold l => s.setMux false l
  | .muxByte => s.setMux true false
  | .muxWrap => s.setMux true true
  | .dsmHold => s.setDsm false false
  | .dsmMod => s.setDsm false true
  | .dsmUpdate => s.setDsm true false
  | .dsmModupd => s.setDsm true true
  | .seqWait => (s.setSeq .wait).setPulse .sample false
  | .seqFire => (s.setSeq .wait).setPulse .sample true
  | .seqRead t => (s.setSeq .channelRead).setPulse .sample t
  | .seqLatch t => (s.setSeq .latch).setPulse .sample t
  | .vuPush => (s.setVuValid true).setVqFull false
  | .vuReject => (s.setVuValid true).setVqFull true
  | .vuNopush n => (s.setVuValid false).setVqFull n
  | .vuPop => (s.setPulse .sample true).setVqEmpty false
  | .vuStarve => (s.setPulse .sample true).setVqEmpty true
  | .vuKeep m => (s.setPulse .sample false).setVqEmpty m
  | .fbRead i => s.mapInputs fun inp => { inp with fbIndex := i }

end Sys2Proof.Machine
end

