-- ==== Sys2Proof/Machine/Step.lean ====
section
/-! DEFINITION. Machine/Step: one step is one master tick: every block performs the operation its control word selects,
each from the state before the tick, and all writes take effect together (R70). -/

namespace Sys2Proof.Machine

/-- One block's operation of the tick. -/
def runBlock (b : Block) (s : State) : Host.Outcome State Fault Refusal :=
  match s.fetch b with
  | .ok i => exec i s
  | .error r => .refused r

/-- The operations of several blocks. -/
def runBlocks : List Block → State → Host.Outcome State Fault Refusal
  | [], s => .next s
  | b :: bs, s =>
    match runBlock b s with
    | .next t => runBlocks bs t
    | .fault r => .fault r
    | .refused r => .refused r

/-- One master tick. -/
def step (s : State) : Host.Outcome State Fault Refusal :=
  match runBlocks s.blocks s.beginTick with
  | .next t => .next t.endTick
  | .fault r => .fault r
  | .refused r => .refused r

/-- The machine with the operation of a bare table word placed as its block's operation of the very next tick (log
entries 3 and 6). -/
def State.withFetchWord (s : State) (nbits w : Nat) : State :=
  match decodeTableWord nbits w with
  | some i => s.selecting i
  | none => s

end Sys2Proof.Machine
end

