-- ==== Sys2Proof/Machine/RegisterView.lean ====
section
/-! DEFINITION. Machine/RegisterView: one tick told register by register instead of operation by operation: what each
register holds after the tick and what each output port shows during it, from the state before the tick and the
inputs alone (R70). Statements relate `step` to it; `step` does not use it. -/

namespace Sys2Proof.Machine

/-- `CNT` after the tick (R125: decrements each tick, re-arms on reaching zero). -/
def State.cntAfter (s : State) (d : Divider) : Nat := if s.cnt d = 0 then s.par.cycles d - 1 else s.cnt d - 1

/-- `PHASE` after the tick: mutated once per accepted output (R24). -/
def State.phaseAfter (s : State) : Pattern :=
  if s.inp.ncoReady then (s.regs.phase + s.phaseIncrement) % 2 ^ s.par.phiBits else s.regs.phase

/-- What one row of the transition table R182 says of a tick. -/
structure DmxRow where
  dstate : DState
  chan : Nat
  sub : List Byte
  inReady : Bool
  emit : Option (Nat × Pattern)
  violation : Bool
deriving DecidableEq, Repr

/-- The transition table of the demultiplexer (R182). -/
def State.dmxRow (s : State) : DmxRow :=
  let g := s.regs
  let x := s.inp.dmxByte
  let size := s.par.subslot
  let ch := if s.inp.dmxFirst then 0 else (g.chan + 1) % s.par.channels
  if s.go = false then
    { dstate := g.dstate, chan := g.chan, sub := g.sub, inReady := s.anyReady, emit := none, violation := false }
  else
    match g.dstate with
    | .error =>
      { dstate := .byte 1, chan := 0, sub := g.sub.set 0 x, inReady := true, emit := none, violation := false }
    | .byte k =>
      if k.val = 0 then
        if size = 1 then
          { dstate := .byte 0, chan := ch, sub := g.sub, inReady := true, emit := some (ch, x.toNat),
            violation := false }
        else
          { dstate := .byte 1, chan := ch, sub := g.sub.set 0 x, inReady := true, emit := none, violation := false }
      else if s.inp.dmxFirst then
        { dstate := .error, chan := g.chan, sub := g.sub, inReady := false, emit := none, violation := true }
      else if k.val = size - 1 then
        { dstate := .byte 0, chan := g.chan, sub := g.sub, inReady := true,
          emit := some (g.chan, assemble s.par.depth s.subframe), violation := false }
      else
        { dstate := .byte (k + 1), chan := g.chan, sub := g.sub.set k.val x, inReady := true, emit := none,
          violation := false }

/-- Does the transport take the last byte of a subframe on this tick (R206)? -/
def State.muxWraps (s : State) : Bool := s.par.hasMux && s.inp.muxReady && s.atLastOffset

/-- `OFF` after the tick (R204 to R206). -/
def State.offAfter (s : State) : BitVec 2 :=
  if s.par.hasMux && s.inp.muxReady then (if s.atLastOffset then 0 else s.regs.off + 1) else s.regs.off

/-- `SEL` after the tick (R206). -/
def State.selAfter (s : State) : Bool := s.regs.sel ^^ s.muxWraps

/-- `ACC[c]` after the tick: changed by modulation ticks only (R223, R228). -/
def State.accAfter (s : State) : List Pattern :=
  if s.par.hasDac && s.stb then s.perChannel fun c => s.accOf c % 2 ^ s.par.bits + s.rOf c else s.regs.acc

/-- `R[c]` after the tick: changed on the LATCH tick only, all channels together (R224, R235). -/
def State.rAfter (s : State) : List Pattern :=
  if s.par.hasDac && s.update then s.perChannel fun c => offsetBinary s.par (s.hOf c) else s.regs.r

/-- `SEQ` after the tick (R229). -/
def State.seqAfter (s : State) : SeqState :=
  if s.par.hasDac then
    match s.regs.seq with
    | .wait => if s.sampleTick then .channelRead else .wait
    | .channelRead => .latch
    | .latch => .wait
  else s.regs.seq

/-- Is this the sequencer's CHANNEL_READ tick? -/
def State.reading (s : State) : Bool := s.par.hasDac && s.regs.seq == .channelRead

/-- `H[c]` after the tick (R232). -/
def State.hAfter (s : State) : List Pattern :=
  if s.reading then s.perChannel fun c => (s.qOf c).items.headD (s.hOf c) else s.regs.h

/-- `Q[c]` after the tick: a pop on the CHANNEL_READ tick, and a push judged on the occupancy before the tick (R67,
R232, R237). -/
def State.qAfter (s : State) : List Fifo :=
  if s.par.hasDac then
    s.perChannel fun c =>
      let popped := if s.reading then (s.qOf c).pop else s.qOf c
      if s.qValid c && decide ((s.qOf c).items.length ≠ 16) then popped.append (s.qSample c) else popped
  else s.regs.q

/-- `VQ` after the tick (R67, R251, R255). -/
def State.vqAfter (s : State) : Fifo :=
  let popped := if s.sampleTick then s.regs.vq.pop else s.regs.vq
  if s.inp.vuValid && decide (s.regs.vq.items.length ≠ 16) then popped.append s.vuSample else popped

/-- `MAG` after the tick (R255, R257, R263). -/
def State.magAfter (s : State) : Pattern :=
  if s.sampleTick then
    match s.regs.vq.items with
    | [] => s.regs.mag
    | x :: _ => rectify s.par x
  else s.regs.mag

/-- Every register after the tick. -/
def State.regsAfter (s : State) : Regs where
  cntSample := s.cntAfter .sample
  cntPulse := s.cntAfter .pulse
  phase := s.phaseAfter
  dstate := s.dmxRow.dstate
  chan := s.dmxRow.chan
  sub := s.dmxRow.sub
  sel := s.selAfter
  off := s.offAfter
  acc := s.accAfter
  r := s.rAfter
  seq := s.seqAfter
  h := s.hAfter
  q := s.qAfter
  vq := s.vqAfter
  mag := s.magAfter

/-- Every output port during the tick (R43, R343). -/
def State.outDuring (s : State) : Outputs where
  pulseSample := s.sampleTick
  pulseMod := s.stb
  ncoValid := true
  ncoSample := ncoOutput s.par s.regs.phase
  dmxInReady := s.dmxRow.inReady
  dmxConsumed := s.inp.dmxValid && s.dmxRow.inReady
  dmxOutValid := s.perChannel fun c => s.dmxRow.emit.any fun e => e.1 == c
  dmxOutSample := (s.dmxRow.emit.map fun e => e.2).getD 0
  dmxHandoff := s.perChannel fun c => (s.dmxRow.emit.any fun e => e.1 == c) && s.dmxReady c
  framingError := s.dmxRow.violation
  muxOutValid := s.par.hasMux
  muxOutByte := if s.par.hasMux then byteAt s.muxBuffer s.regs.off.toNat else 0
  muxSReady := if s.par.hasMux then [s.muxWraps && !s.regs.sel, s.muxWraps && s.regs.sel] else []
  muxHandoff :=
    if s.par.hasMux then [s.muxWraps && !s.regs.sel && s.muxValid 0, s.muxWraps && s.regs.sel && s.muxValid 1]
    else []
  dacOut := if s.par.hasDac then s.perChannel fun c => pinOf s.par (s.accOf c) else []
  qReady := if s.par.hasDac then s.perChannel fun c => decide ((s.qOf c).items.length ≠ 16) else []
  update := s.par.hasDac && s.update
  vuInReady := decide (s.regs.vq.items.length ≠ 16)
  lit := litOf s.par.th s.regs.mag
  level := levelOf s.par.th s.regs.mag
  fbByte := feedbackByte s.par.fb s.inp.fbIndex

/-- The machine after the tick. -/
def State.afterTick (s : State) : State where
  par := s.par
  regs := s.regsAfter
  next := s.regsAfter
  out := s.outDuring
  stimulus := s.stimulus.tail
  tick := s.tick + 1

end Sys2Proof.Machine
end

