-- ==== Sys2Proof/Safety.lean ====
section
/-! DEFINITION. Safety: the value ranges of R42 as an invariant, what a safe step is, and the environment's obligations
(R346, R350 to R352) as hypotheses for guarantees. -/

namespace Sys2Proof.Machine

/-- The ranges of a FIFO (R63): at most 16 entries, each a b-bit pattern. -/
abbrev Fifo.Ok (b : Nat) (q : Fifo) : Prop :=
  q.items.length ≤ 16 ∧ (∀ v ∈ q.items, v < 2 ^ b) ∧ q.last < 2 ^ b

/-- What construction makes of every constant: R9, R141 (N entries of b bits), R258 (SEGMENTS non-decreasing
thresholds, none above full scale), R121 (`cycles >= 1`), R201, R234. -/
abbrev Params.Ok (p : Params) : Prop :=
  1 ≤ p.channels ∧ 1 ≤ p.phiBits ∧ p.indexBits ≤ p.phiBits ∧
  p.table.length = p.tableLength ∧ (∀ v ∈ p.table, v < 2 ^ p.bits) ∧
  1 ≤ p.segments ∧ p.th.length = p.segments ∧ p.th.Pairwise (· ≤ ·) ∧ (∀ t ∈ p.th, t < 2 ^ (p.bits - 1)) ∧
  1 ≤ p.cyclesSample ∧ 1 ≤ p.cyclesPulse ∧
  (p.hasMux = true → p.channels = 2) ∧ (p.hasDac = true → 3 ≤ p.cyclesSample)

/-- The values column of R42, for every register. -/
abbrev Regs.Ok (p : Params) (g : Regs) : Prop :=
  g.cntSample < p.cyclesSample ∧ g.cntPulse < p.cyclesPulse ∧
  g.phase < 2 ^ p.phiBits ∧
  p.dstateReachable g.dstate = true ∧ g.chan < p.channels ∧ g.sub.length = p.subslot - 1 ∧
  p.offReachable g.off = true ∧
  g.acc.length = p.channels ∧ (∀ a ∈ g.acc, a < 2 ^ (p.bits + 1)) ∧
  g.r.length = p.channels ∧ (∀ v ∈ g.r, v < 2 ^ p.bits) ∧
  g.h.length = p.channels ∧ (∀ v ∈ g.h, v < 2 ^ p.bits) ∧
  g.q.length = p.channels ∧ (∀ f ∈ g.q, f.Ok p.bits) ∧
  g.vq.Ok p.bits ∧
  (if p.signed then g.mag ≤ 2 ^ (p.bits - 1) else g.mag < 2 ^ p.bits)

/-- The machine is as R42 describes it between two ticks. -/
abbrev State.Ok (s : State) : Prop := s.par.Ok ∧ s.regs.Ok s.par

/-- A safe step answers a next state: nothing stops the machine (R305). -/
abbrev State.StepSafe (s : State) : Prop := ∃ t, step s = .next t

/-- R351 for one tick: the consumers of the demultiplexer are all ready or none. -/
abbrev State.ReadyTogether (s : State) : Prop :=
  ∀ c < s.par.channels, s.dmxReady c = s.anyReady

/-- Every one of the first `n` consumers of the demultiplexer is ready. -/
abbrev AllReady (x : Inputs) (n : Nat) : Prop := ∀ c < n, x.dmxReady.getD c false = true

/-! ### Runs of ticks -/

/-- The inputs of the tick that comes after `j` further ticks. -/
def State.inputAt (s : State) (j : Nat) : Inputs := s.stimulus.getD j (Config.freeInputs (s.tick + j))

/-- The state after `k` ticks, when nothing stops the machine before. -/
def State.ran (s : State) (k : Nat) : Option State :=
  match core.run k s with
  | .next t => some t
  | .fault _ => none
  | .refused _ => none

/-- The number of the first `k` ticks that `f` holds of, from the state before the tick and the state after it. -/
def State.countTicks (s : State) (f : State → State → Bool) (k : Nat) : Nat :=
  ((List.range k).filter fun j => ((s.ran j).bind fun u => (s.ran (j + 1)).map fun v => f u v).getD false).length

/-- The operations of a list, one after another. -/
def execAll : List Instr → State → Host.Outcome State Fault Refusal
  | [], s => .next s
  | i :: is, s =>
    match exec i s with
    | .next t => execAll is t
    | .fault r => .fault r
    | .refused r => .refused r

/-- What the demultiplexer shows on a tick that emits nothing (R180). -/
abbrev demuxSilent (o : Outputs) (channels : Nat) (inReady consumed violation : Bool) : Outputs :=
  { o with
    dmxInReady := inReady
    dmxConsumed := consumed
    dmxOutValid := List.replicate channels false
    dmxOutSample := 0
    dmxHandoff := List.replicate channels false
    framingError := violation }

/-- What the demultiplexer shows on a tick that emits a sample on one channel (R179). -/
abbrev demuxEmits (o : Outputs) (ready : Nat → Bool) (channels tag : Nat) (sample : Pattern) : Outputs :=
  { o with
    dmxInReady := true
    dmxConsumed := true
    dmxOutValid := (List.range channels).map fun c => tag == c
    dmxOutSample := sample
    dmxHandoff := (List.range channels).map fun c => tag == c && ready c
    framingError := false }

end Sys2Proof.Machine
end

