-- ==== Sys2Proof/Certificates/Slice0/Obligations.lean ====
section
/-! DEFINITION. Obligations: the statements about the machine, for the provers. Each docstring names the rules of
spec/ it rests on. -/

open Sys2Proof Sys2Proof.Machine

/-! ### Encoding (30_encoding.md) -/

/-- R100 to R109: a word decodes to an operation exactly when it is the operation's encoding, for every operand value
that the encoding admits. -/
def Obligations.DecodeExactlyInvertsEncode : Prop :=
  ∀ (b : Block) (w : CtrlWord) (i : Instr),
    decode b w = .ok i ↔ i.block = b ∧ i.wellFormed = true ∧ i.encode = w

/-- R100: the opcode table selects exactly one row for every word of a block's width, apart from the words of R109 (d):
the row of the operation that the word decodes to. -/
def Obligations.OpcodeTableSelectsOneRow : Prop :=
  ∀ (b : Block) (w : CtrlWord), w.toNat < 2 ^ b.width →
    ¬ (b = .dmx ∧ w.getLsbD 4 = true ∧ (w.getLsbD 3 = true ∨ w.getLsbD 2 = true)) →
    ¬ (b = .seq ∧ 6 ≤ w.toNat) →
    ∃ i, decode b w = .ok i ∧ i.block = b ∧
      ∀ j : Instr, j.block = b → (j.matchesRow w = true ↔ j.tableRow = i.tableRow)

/-- R109 (d): the words without a meaning are refused, and those only. -/
def Obligations.UnreachableWordsAreRefused : Prop :=
  (∀ w : CtrlWord, decode .dmx w = .error .errorAndByteState ↔
    w.getLsbD 4 = true ∧ (w.getLsbD 3 = true ∨ w.getLsbD 2 = true)) ∧
  (∀ w : CtrlWord, decode .seq w = .error .seqStateThree ↔ w.toNat = 6 ∨ w.toNat = 7) ∧
  (∀ (b : Block) (w : CtrlWord), decode b w = .error .tooWide ↔ 2 ^ b.width ≤ w.toNat)

/-- R101 to R108: words written out from the encoding column decode to the operations they stand for. -/
def Obligations.WordsWrittenOutDecode : Prop :=
  decode (.rdiv .pulse) 0b1 = .ok (.rdivReload .pulse) ∧
  decode .nco 0b0 = .ok .ncoHold ∧
  decode .dmx 0b00111 = .ok (.dmxStart false true) ∧
  decode .dmx 0b01010 = .ok .dmxLast ∧
  decode .mux 0b10 = .ok .muxByte ∧
  decode .dsm 0b11 = .ok .dsmModupd ∧
  decode .seq 0b101 = .ok (.seqLatch true) ∧
  decode .vui 0b11 = .ok .vuReject ∧
  decode .vuo 0b01 = .ok (.vuKeep true) ∧
  decode .fb 0b10 = .ok (.fbRead 2)

/-- R103, R109, R175, R183, R205: an operation fires in some state of a constructed machine exactly when its word is not
one of R109 (d), its block is built and the subframe has room for it. -/
def Obligations.FiringOperationsAreTheReachableOnes : Prop :=
  ∀ p : Params, p.Ok → 2 ≤ p.cyclesSample → 2 ≤ p.cyclesPulse → ∀ i : Instr,
    ((i.wellFormed = true ∧ i.existsAt p.subslot = true ∧ (i.block = .mux → p.hasMux = true) ∧
        (i.block = .dsm ∨ i.block = .seq → p.hasDac = true)) ↔
      ∃ s : State, s.par = p ∧ s.Ok ∧ s.fetch i.block = .ok i)

/-! ### The tick (R20, R21, R70, R305) -/

/-- R70, R100: when a list of operations, one for each built block, is the one the control words select, a tick is the
performance of these operations and then the common update. -/
def Obligations.StepRunsTheSelectedOperations : Prop :=
  ∀ (s : State) (ops : List Instr), ops.map Instr.block = s.blocks →
    (∀ i ∈ ops, i.wellFormed = true ∧ s.controlWord i.block = some i.encode) →
    ∃ t, execAll ops s.beginTick = .next t ∧ step s = .next t.endTick

/-- R70: every block's operation reads the state before the tick and all writes take effect together; register by
register and port by port, a tick is the synchronous update of Machine/RegisterView.lean (its demultiplexer part is
the transition table R182). -/
def Obligations.StepIsTheSynchronousUpdate : Prop :=
  ∀ s : State, s.Ok → step s = .next s.afterTick

/-- R70 (a): the result of a tick does not depend on any order among the blocks. -/
def Obligations.BlockOrderIsImmaterial : Prop :=
  ∀ (s : State) (order : List Block), s.Ok → order.Perm s.blocks →
    runBlocks order s.beginTick = runBlocks s.blocks s.beginTick

/-- R42: every register stays within its values column, and construction's constants never change (R8). -/
def Obligations.StepKeepsRegistersInRange : Prop :=
  ∀ s t : State, s.Ok → step s = .next t → t.Ok ∧ t.par = s.par

/-- R305: nothing traps, every tick of a machine within its ranges answers a next state, for any inputs. -/
def Obligations.RunsNeverStop : Prop :=
  ∀ (s : State) (k : Nat), s.Ok → ∃ t, s.ran k = some t ∧ t.Ok ∧ t.par = s.par ∧ t.tick = s.tick + k

/-- R21: an operation changes only the registers of its own block, and never what the other operations of the tick
read. -/
def Obligations.OperationsOwnTheirRegisters : Prop :=
  ∀ (i : Instr) (s t : State), exec i s = .next t →
    (t.par = s.par ∧ t.regs = s.regs ∧ t.stimulus = s.stimulus ∧ t.tick = s.tick) ∧
    (i.block ≠ .rdiv .sample → t.next.cntSample = s.next.cntSample) ∧
    (i.block ≠ .rdiv .pulse → t.next.cntPulse = s.next.cntPulse) ∧
    (i.block ≠ .nco → t.next.phase = s.next.phase) ∧
    (i.block ≠ .dmx → t.next.dstate = s.next.dstate ∧ t.next.chan = s.next.chan ∧ t.next.sub = s.next.sub) ∧
    (i.block ≠ .mux → t.next.sel = s.next.sel ∧ t.next.off = s.next.off) ∧
    (i.block ≠ .dsm → t.next.acc = s.next.acc ∧ t.next.r = s.next.r) ∧
    (i.block ≠ .seq → t.next.seq = s.next.seq ∧ t.next.h = s.next.h ∧ t.next.q = s.next.q) ∧
    (i.block ≠ .vui → i.block ≠ .vuo → t.next.vq = s.next.vq) ∧
    (i.block ≠ .vuo → t.next.mag = s.next.mag)

/-- R100: an operation whose word is not its block's control word does not fire. The refusal is the model's way to say
so (log entry 5). -/
def Obligations.OperationNotSelectedIsRefused : Prop :=
  ∀ (i : Instr) (s : State), s.controlWord i.block ≠ some i.encode → exec i s = .refused (.notSelected i)

/-- R109 (d): a stored code that is never reached has no meaning: the tick is refused by name (log entry 7). -/
def Obligations.UnreachableCodesAreRefused : Prop :=
  (∀ s : State, s.par.dstateReachable s.regs.dstate = false → step s = .refused (.unreachableCode .dmx)) ∧
  (∀ s : State, s.par.dstateReachable s.regs.dstate = true → s.par.hasMux = true →
    s.par.offReachable s.regs.off = false → step s = .refused (.unreachableCode .mux))

/-- R344 with R148, R173 to R177, R204, R205, R222 to R225, R230, R232, R237, R252, R253, R257, R263: a register keeps its
value on every tick but those on which its rules write it. (CNT is written on every tick, R23.) -/
def Obligations.RegistersHoldOtherwise : Prop :=
  ∀ s t : State, s.Ok → step s = .next t →
    (s.inp.ncoReady = false → t.regs.phase = s.regs.phase) ∧
    (s.go = false → t.regs.dstate = s.regs.dstate ∧ t.regs.chan = s.regs.chan ∧ t.regs.sub = s.regs.sub) ∧
    (∀ k : Fin 4, s.regs.dstate = .byte k → 0 < k.val → t.regs.chan = s.regs.chan) ∧
    (∀ k : Fin 4, s.regs.dstate = .byte k → (k.val = s.par.subslot - 1 ∨ 0 < k.val ∧ s.inp.dmxFirst = true) →
      t.regs.sub = s.regs.sub) ∧
    (∀ j : Nat, (s.regs.dstate = .error → j ≠ 0) → (∀ k : Fin 4, s.regs.dstate = .byte k → j ≠ k.val) →
      t.regs.sub[j]? = s.regs.sub[j]?) ∧
    (s.par.hasMux = false ∨ s.inp.muxReady = false → t.regs.off = s.regs.off) ∧
    (s.par.hasMux = false ∨ s.inp.muxReady = false ∨ s.regs.off.toNat ≠ s.par.subslot - 1 →
      t.regs.sel = s.regs.sel) ∧
    (s.par.hasDac = false ∨ s.stb = false → t.regs.acc = s.regs.acc) ∧
    (s.par.hasDac = false ∨ s.regs.seq ≠ .latch → t.regs.r = s.regs.r) ∧
    (s.par.hasDac = false ∨ s.regs.seq = .wait ∧ s.sampleTick = false → t.regs.seq = s.regs.seq) ∧
    (s.par.hasDac = false ∨ s.regs.seq ≠ .channelRead → t.regs.h = s.regs.h) ∧
    (s.par.hasDac = false → t.regs.q = s.regs.q) ∧
    (∀ c < s.par.channels, (s.qOf c).items = [] → t.hOf c = s.hOf c) ∧
    (∀ c < s.par.channels, s.regs.seq ≠ .channelRead ∨ (s.qOf c).items = [] →
      (t.qOf c).last = (s.qOf c).last ∧
      (s.qValid c = false ∨ (s.qOf c).items.length = 16 → t.qOf c = s.qOf c)) ∧
    (s.sampleTick = false ∨ s.regs.vq.items = [] →
      t.regs.mag = s.regs.mag ∧ t.regs.vq.last = s.regs.vq.last ∧
      (s.inp.vuValid = false ∨ s.regs.vq.items.length = 16 → t.regs.vq = s.regs.vq))

/-- R170, R200, R21: what the demultiplexer does is fixed by its own registers, its own inputs and the constants; two
machines that agree on these agree on them after any number of ticks, whatever their other blocks do. -/
def Obligations.DemultiplexerIsIsolated : Prop :=
  ∀ (s u : State) (k : Nat), s.Ok → u.Ok → s.par = u.par →
    s.regs.dstate = u.regs.dstate → s.regs.chan = u.regs.chan → s.regs.sub = u.regs.sub →
    (∀ j < k, (s.inputAt j).dmxValid = (u.inputAt j).dmxValid ∧ (s.inputAt j).dmxByte = (u.inputAt j).dmxByte ∧
      (s.inputAt j).dmxFirst = (u.inputAt j).dmxFirst ∧ (s.inputAt j).dmxReady = (u.inputAt j).dmxReady) →
    ∃ t v, s.ran k = some t ∧ u.ran k = some v ∧
      t.regs.dstate = v.regs.dstate ∧ t.regs.chan = v.regs.chan ∧ t.regs.sub = v.regs.sub ∧
      (0 < k → t.out.dmxInReady = v.out.dmxInReady ∧ t.out.dmxOutValid = v.out.dmxOutValid ∧
        t.out.dmxOutSample = v.out.dmxOutSample ∧ t.out.framingError = v.out.framingError)

/-! ### Construction and reset (60_exceptions.md, 70_reset_and_hazards.md) -/

/-- R42, R340: the machine after reset is within its ranges, and it is what construction answers for the configuration
of V-CFG-11 (its open parameters are the model's choice, log entries 9 and 10). -/
def Obligations.ResetStateIsConstructedAndInRange : Prop :=
  State.reset.Ok ∧ construct defaultConfig = .ok State.reset

/-- R340: whatever the configuration, a machine that construction answers is within its ranges. -/
def Obligations.ConstructedMachinesAreInRange : Prop :=
  ∀ (cfg : Config) (s : State), construct cfg = .ok s → s.Ok

/-- R341, and R8, R20, R129, R345 for the constants: every register's value after construction, and every constant of
the machine that is a field of the configuration or a divisor. (TABLE, TH and FB: TableEntriesAreTruncatedCosines,
ThresholdsAreTheFloorsOfTheLogScale, FeedbackValueIsTheRoundedRate.) -/
def Obligations.ConstructionSetsEveryRegister : Prop :=
  ∀ (cfg : Config) (s : State), construct cfg = .ok s →
    (s.regs.cntSample = cfg.divInitSample ∧ s.regs.cntPulse = cfg.divInitPulse ∧ s.regs.phase = cfg.phaseInit ∧
    s.regs.dstate = .byte 0 ∧ s.regs.chan = 0 ∧ s.regs.sub = List.replicate (s.par.subslot - 1) 0 ∧
    s.regs.sel = false ∧ s.regs.off = 0 ∧
    s.regs.acc = cfg.accInit ∧ s.regs.r = List.replicate cfg.channels 0 ∧
    s.regs.seq = .wait ∧ s.regs.h = List.replicate cfg.channels 0 ∧
    s.regs.q = List.replicate cfg.channels { items := [], last := 0 } ∧
    s.regs.vq = { items := [], last := 0 } ∧ s.regs.mag = 0) ∧
    s.par.bits = cfg.bitDepth ∧ s.par.subslot = (if cfg.bitDepth = 24 then 4 else cfg.bitDepth / 8) ∧
    s.par.signed = cfg.signed ∧ s.par.channels = cfg.channels ∧ s.par.phiBits = cfg.phiBits ∧
    2 ^ s.par.indexBits = cfg.tableLength ∧ s.par.segments = cfg.segments ∧
    s.par.hasMux = cfg.hasMux ∧ s.par.hasDac = cfg.hasDac ∧
    (s.par.cyclesSample : Rat) = cfg.masterHz / cfg.sampleRateHz ∧
    (s.par.cyclesPulse : Int) = roundHalfEven (cfg.masterHz / cfg.pulseRateHz)

/-- R343: the outputs on tick 0 with the default parameters, for any inputs. LIT and LEVEL are 0 when no threshold is 0
(more segments than full scale would make `TH[0]` 0, and then R259 lights segment 0 at `MAG = 0`). -/
def Obligations.OutputsOnTickZero : Prop :=
  ∀ (cfg : Config) (made s t : State) (xs : List Inputs), construct cfg = .ok made → s = { made with stimulus := xs } →
    cfg.divInitSample = 0 → cfg.divInitPulse = 0 → cfg.phaseInit = 0 → step s = .next t →
    t.out.pulseSample = true ∧ t.out.pulseMod = true ∧
    t.out.ncoValid = true ∧ t.out.ncoSample = ncoOutput s.par 0 ∧
    (1 < s.par.subslot → t.out.dmxOutValid = List.replicate cfg.channels false ∧ t.out.dmxOutSample = 0) ∧
    t.out.framingError = false ∧ t.out.dmxInReady = s.anyReady ∧
    (cfg.hasMux = true → t.out.muxOutValid = true ∧
      t.out.muxOutByte = byteAt (packSample s.par.depth (s.muxSample 0)) 0 ∧
      (s.inp.muxReady = false ∨ 1 < s.par.subslot → t.out.muxSReady = [false, false])) ∧
    (cfg.hasDac = true → t.out.update = false ∧ t.out.qReady = List.replicate cfg.channels true) ∧
    t.out.vuInReady = true ∧ t.out.fbByte = feedbackByte s.par.fb s.inp.fbIndex ∧
    ((∀ v ∈ s.par.th, 0 < v) → t.out.lit = 0 ∧ t.out.level = 0)

/-- R300 to R304, R345: construction succeeds exactly when every condition on the configuration holds. Two things in the
list are the model's choice: that `accInit` must have one entry a channel, which R304 does not list (log entry 14), and
the flags `hasMux` and `hasDac` (log entry 15). -/
def Obligations.ConstructionSucceedsIffValid : Prop :=
  ∀ cfg : Config, (∃ s, construct cfg = .ok s) ↔
    (cfg.bitDepth = 8 ∨ cfg.bitDepth = 16 ∨ cfg.bitDepth = 24 ∨ cfg.bitDepth = 32) ∧
    (∃ k, cfg.tableLength = 2 ^ k ∧ k ≤ cfg.phiBits) ∧ 1 ≤ cfg.phiBits ∧
    0 ≤ cfg.gain ∧ cfg.gain ≤ 1 ∧
    1 ≤ cfg.channels ∧ (cfg.hasMux = true → cfg.channels = 2) ∧
    1 ≤ cfg.segments ∧
    0 < cfg.masterHz ∧ 0 < cfg.sampleRateHz ∧ 0 < cfg.pulseRateHz ∧ 0 ≤ cfg.pulseMaxPpm ∧
    (cfg.fbShift = 16 ∨ cfg.fbShift = 17) ∧ cfg.fifoDepth = 16 ∧
    cfg.phaseInit < 2 ^ cfg.phiBits ∧
    cfg.accInit.length = cfg.channels ∧ (∀ a ∈ cfg.accInit, a < 2 ^ (cfg.bitDepth + 1)) ∧
    (∃ cs : Nat, cfg.masterHz / cfg.sampleRateHz = cs ∧ 1 ≤ cs ∧ cfg.divInitSample < cs ∧
      (cfg.hasDac = true → 3 ≤ cs)) ∧
    (∃ cp : Nat, roundHalfEven (cfg.masterHz / cfg.pulseRateHz) = cp ∧ 1 ≤ cp ∧ cfg.divInitPulse < cp ∧
      |cfg.masterHz / cp - cfg.pulseRateHz| / cfg.pulseRateHz * 1000000 ≤ cfg.pulseMaxPpm) ∧
    ⌈cfg.sampleRateHz / 8000⌉ * cfg.channels * (if cfg.bitDepth = 24 then 4 else cfg.bitDepth / 8 : Nat) ≤
      (cfg.maxPacketSize : Int) ∧
    roundHalfEven (cfg.sampleRateHz / 8000 * 2 ^ cfg.fbShift) < 2 ^ 32

/-- R302, with R310 and R345 (1), which put this check first: an unsupported bit depth is refused before anything else,
with the value, and no other configuration is refused so. -/
def Obligations.UnsupportedDepthIsRefusedFirst : Prop :=
  ∀ (cfg : Config) (v : Nat), construct cfg = .error (.eBitDepth v) ↔
    v = cfg.bitDepth ∧ cfg.bitDepth ∉ [8, 16, 24, 32] ∧ (ConfigError.eBitDepth v).code = 2

/-! ### RateDivider (40_rate_divider.md) -/

/-- R126, R127: RDIV.RELOAD and RDIV.COUNT of both dividers. -/
def Obligations.RateDividerOperations : Prop :=
  (∀ d, (Instr.rdivReload d).encode = 1 ∧ (Instr.rdivCount d).encode = 0) ∧
  (∀ s : State, s.regs.cntSample = 0 → exec (.rdivReload .sample) s =
    .next { s with next := { s.next with cntSample := s.par.cyclesSample - 1 }
                   out := { s.out with pulseSample := true } }) ∧
  (∀ s : State, s.regs.cntPulse = 0 → exec (.rdivReload .pulse) s =
    .next { s with next := { s.next with cntPulse := s.par.cyclesPulse - 1 }
                   out := { s.out with pulseMod := true } }) ∧
  (∀ s : State, s.regs.cntSample ≠ 0 → exec (.rdivCount .sample) s =
    .next { s with next := { s.next with cntSample := s.regs.cntSample - 1 }
                   out := { s.out with pulseSample := false } }) ∧
  (∀ s : State, s.regs.cntPulse ≠ 0 → exec (.rdivCount .pulse) s =
    .next { s with next := { s.next with cntPulse := s.regs.cntPulse - 1 }
                   out := { s.out with pulseMod := false } })

/-- R128: from any counter value, the pulse is 1 on exactly the ticks congruent to it modulo `cycles`, for ever. -/
def Obligations.PulsesAreExactlyPeriodic : Prop :=
  ∀ (s : State) (d : Divider) (k : Nat), s.Ok →
    ∃ t, s.ran k = some t ∧ (t.pulse d = true ↔ k % s.par.cycles d = s.cnt d % s.par.cycles d)

/-- R121, R122, R124, R130: the divider is built exactly when the divisor `round(master/target)` is at least 1 and
deviates by at most the tolerance; it is then that divisor. -/
def Obligations.DividerBuiltIffRoundedDivisorWithinTolerance : Prop :=
  ∀ (which : Divider) (m t ppm : Rat) (c : Nat), 0 < m → 0 < t →
    (cfgRdiv which m t ppm = .ok c ↔
      roundHalfEven (m / t) = c ∧ 1 ≤ c ∧ |m / c - t| / t * 1000000 ≤ ppm)

/-- R123: with a tolerance of 0 ppm exactly the integer quotients are accepted. -/
def Obligations.ZeroToleranceAcceptsIntegerQuotientsOnly : Prop :=
  ∀ (which : Divider) (m t : Rat) (c : Nat), 0 < m → 0 < t →
    (cfgRdiv which m t 0 = .ok c ↔ m / t = c)

/-- 00_scope.md section 4 (`round`, ties to even): the nearest integer, the even one of two. -/
def Obligations.RoundIsNearestTiesToEven : Prop :=
  ∀ x : Rat, |x - roundHalfEven x| ≤ 1 / 2 ∧ (|x - roundHalfEven x| = 1 / 2 → Even (roundHalfEven x))

/-! ### Oscillator (41_oscillator.md) -/

/-- R147, R148: NCO.ADVANCE and NCO.HOLD. -/
def Obligations.OscillatorOperations : Prop :=
  Instr.ncoAdvance.encode = 1 ∧ Instr.ncoHold.encode = 0 ∧
  (∀ s : State, s.inp.ncoReady = true → exec .ncoAdvance s =
    .next { s with next := { s.next with
                      phase := (s.regs.phase + s.inp.phaseIncrement % 2 ^ s.par.phiBits) % 2 ^ s.par.phiBits }
                   out := { s.out with ncoValid := true, ncoSample := ncoOutput s.par s.regs.phase } }) ∧
  (∀ s : State, s.inp.ncoReady = false → exec .ncoHold s =
    .next { s with out := { s.out with ncoValid := true, ncoSample := ncoOutput s.par s.regs.phase } })

/-- R62, R99, R143 to R145: the output is the floor of the mean of the entry that the top INDEX_BITS bits of PHASE
select and the next one, the last entry's next being the first, and it fits b bits. -/
def Obligations.OutputIsFloorOfMeanOfTwoEntries : Prop :=
  ∀ (p : Params) (phase : Nat), p.Ok → phase < 2 ^ p.phiBits →
    ∃ idx, idx = phase / 2 ^ (p.phiBits - p.indexBits) ∧ idx < 2 ^ p.indexBits ∧
      ∃ a b, p.table[idx]? = some a ∧ p.table[if idx + 1 = 2 ^ p.indexBits then 0 else idx + 1]? = some b ∧
        ncoOutput p phase < 2 ^ p.bits ∧
        (p.signed = true →
          signedVal p.bits (ncoOutput p phase) = ⌊((signedVal p.bits a + signedVal p.bits b : Int) : ℚ) / 2⌋) ∧
        (p.signed = false → ncoOutput p phase = (a + b) / 2)

/-- R147, R148, R150, R151: after any ticks PHASE has moved by the sum of the increments of the accepted ones, modulo
`2^PHI_BITS`. -/
def Obligations.PhaseIsTheSumOfAcceptedIncrements : Prop :=
  ∀ (s : State) (k : Nat), s.Ok →
    ∃ t, s.ran k = some t ∧
      t.regs.phase = (s.regs.phase + ∑ j ∈ Finset.range k,
        if (s.inputAt j).ncoReady then (s.inputAt j).phaseIncrement else 0) % 2 ^ s.par.phiBits

/-- R150: after N accepted advances by a constant increment d the phase is back where it was exactly when d is a
multiple of `2^(PHI_BITS - INDEX_BITS)`; after `2^PHI_BITS / gcd(d, 2^PHI_BITS)` it always is. -/
def Obligations.PhaseReturnsAsTheIncrementDivides : Prop :=
  ∀ (s : State) (k d : Nat), s.Ok →
    (∀ j < k, (s.inputAt j).ncoReady = true ∧ (s.inputAt j).phaseIncrement = d) →
    (k = 2 ^ s.par.indexBits → ∃ t, s.ran k = some t ∧
      (t.regs.phase = s.regs.phase ↔ 2 ^ (s.par.phiBits - s.par.indexBits) ∣ d)) ∧
    (k = 2 ^ s.par.phiBits / Nat.gcd d (2 ^ s.par.phiBits) → ∃ t, s.ran k = some t ∧
      t.regs.phase = s.regs.phase)

/-- R141, R345 (6): every entry of the table, as computed and as a constructed machine holds it, is the truncation toward
zero, in exact real arithmetic, of the scaled cosine at its phase point; a signed entry is held as its b-bit
two's-complement pattern. -/
def Obligations.TableEntriesAreTruncatedCosines : Prop :=
  (∀ (b k i : Nat) (gain : ℚ), 2 ≤ b → 0 ≤ gain → gain ≤ 1 → i < 2 ^ k →
    (∃ x : ℝ, x = Real.cos (2 * Real.pi * i / 2 ^ k) * (2 ^ (b - 1) - 1) * gain ∧
      tableEntrySigned b k gain i = if 0 ≤ x then ⌊x⌋ else ⌈x⌉) ∧
    (∃ y : ℝ, y = (Real.cos (2 * Real.pi * i / 2 ^ k) + 1) / 2 * (2 ^ b - 1) * gain ∧
      (tableEntryUnsigned b k gain i : ℤ) = ⌊y⌋)) ∧
  (∀ (cfg : Config) (s : State), construct cfg = .ok s → s.par.table.length = cfg.tableLength ∧
    ∀ i < cfg.tableLength, ∃ p, s.par.table[i]? = some p ∧
      (cfg.signed = true →
        ∃ x : ℝ, x = Real.cos (2 * Real.pi * i / cfg.tableLength) * (2 ^ (cfg.bitDepth - 1) - 1) * cfg.gain ∧
          (p : ℤ) = (if 0 ≤ x then ⌊x⌋ else ⌈x⌉) % 2 ^ cfg.bitDepth) ∧
      (cfg.signed = false →
        ∃ y : ℝ, y = (Real.cos (2 * Real.pi * i / cfg.tableLength) + 1) / 2 * (2 ^ cfg.bitDepth - 1) * cfg.gain ∧
          (p : ℤ) = ⌊y⌋))

/-! ### StreamFramer, the demultiplexer (42_stream_demux.md) -/

/-- R173, R174, R183: DMX.HOLD in every state, DMX.START with several bytes and with one. -/
def Obligations.DemuxHoldAndStartOperations : Prop :=
  (∀ e l k f : Bool, (Instr.dmxHold e l k f).encode =
      BitVec.ofBool e ++ BitVec.ofBool l ++ BitVec.ofBool k ++ 0#1 ++ BitVec.ofBool f ∧
    (Instr.dmxStart l f).encode = 0#1 ++ BitVec.ofBool l ++ 1#1 ++ 1#1 ++ BitVec.ofBool f) ∧
  (∀ s : State, s.par.dstateReachable s.regs.dstate = true → s.go = false →
    exec (.dmxHold s.inError (s.atByte (s.par.subslot - 1)) (s.atByte 0) s.inp.dmxFirst) s =
      .next { s with out := demuxSilent s.out s.par.channels s.anyReady false false }) ∧
  (∀ s : State, s.regs.dstate = .byte 0 → 1 < s.par.subslot → s.go = true →
    exec (.dmxStart false s.inp.dmxFirst) s =
      .next { s with
        next := { s.next with
          chan := if s.inp.dmxFirst then 0 else (s.regs.chan + 1) % s.par.channels
          sub := s.regs.sub.set 0 s.inp.dmxByte
          dstate := .byte 1 }
        out := demuxSilent s.out s.par.channels true true false }) ∧
  (∀ s : State, s.regs.dstate = .byte 0 → s.par.subslot = 1 → s.go = true →
    exec (.dmxStart true s.inp.dmxFirst) s =
      .next { s with
        next := { s.next with
          chan := if s.inp.dmxFirst then 0 else (s.regs.chan + 1) % s.par.channels
          dstate := .byte 0 }
        out := demuxEmits s.out s.dmxReady s.par.channels
          (if s.inp.dmxFirst then 0 else (s.regs.chan + 1) % s.par.channels) s.inp.dmxByte.toNat })

/-- R175, R176: DMX.MID and DMX.LAST. -/
def Obligations.DemuxMidAndLastOperations : Prop :=
  Instr.dmxMid.encode = 0b00010 ∧ Instr.dmxLast.encode = 0b01010 ∧
  (∀ (s : State) (k : Fin 4), s.regs.dstate = .byte k → 0 < k.val → k.val < s.par.subslot - 1 →
    s.go = true → s.inp.dmxFirst = false →
    exec .dmxMid s =
      .next { s with
        next := { s.next with sub := s.regs.sub.set k.val s.inp.dmxByte, dstate := .byte (k + 1) }
        out := demuxSilent s.out s.par.channels true true false }) ∧
  (∀ (s : State) (k : Fin 4), s.regs.dstate = .byte k → 0 < k.val → k.val = s.par.subslot - 1 →
    s.regs.sub.length = s.par.subslot - 1 → s.go = true → s.inp.dmxFirst = false →
    exec .dmxLast s =
      .next { s with
        next := { s.next with dstate := .byte 0 }
        out := demuxEmits s.out s.dmxReady s.par.channels s.regs.chan
          (assemble s.par.depth (s.regs.sub ++ [s.inp.dmxByte])) })

/-- R177, R178, R307, R308: DMX.VIOLATE takes the framing violation, DMX.RESYNC returns from it. -/
def Obligations.DemuxViolateAndResyncOperations : Prop :=
  (∀ l k f : Bool, (Instr.dmxViolate l).encode = 0#1 ++ BitVec.ofBool l ++ 0#1 ++ 1#1 ++ 1#1 ∧
    (Instr.dmxResync l k f).encode = 1#1 ++ BitVec.ofBool l ++ BitVec.ofBool k ++ 1#1 ++ BitVec.ofBool f) ∧
  (∀ (s : State) (k : Fin 4), s.regs.dstate = .byte k → 0 < k.val → k.val < s.par.subslot →
    s.go = true → s.inp.dmxFirst = true →
    exec (.dmxViolate (k.val == s.par.subslot - 1)) s =
      .next { s with
        next := { s.next with dstate := .error }
        out := demuxSilent s.out s.par.channels false false true }) ∧
  (∀ s : State, s.regs.dstate = .error → 1 < s.par.subslot → s.go = true →
    exec (.dmxResync false false s.inp.dmxFirst) s =
      .next { s with
        next := { s.next with chan := 0, sub := s.regs.sub.set 0 s.inp.dmxByte, dstate := .byte 1 }
        out := demuxSilent s.out s.par.channels true true false })

/-- R92, R93: the sample is the top b bits of the subslot word, its low-order byte first; the padding byte of a 24-bit
subframe is dropped whatever it is. -/
def Obligations.AssemblyDropsThePaddingByte : Prop :=
  (∀ x : Byte, assemble .d8 [x] = x.toNat) ∧
  (∀ x y : Byte, assemble .d16 [x, y] = (y ++ x).toNat) ∧
  (∀ x y z w : Byte, assemble .d24 [x, y, z, w] = (w ++ z ++ y).toNat) ∧
  (∀ x y z w : Byte, assemble .d32 [x, y, z, w] = (w ++ z ++ y ++ x).toNat)

/-- R174 to R176, R179 to R181, R183: S bytes from BYTE0, the first perhaps marked, give exactly one sample, on the tick
of the last byte, on the channel the first byte chose. -/
def Obligations.SubframeInGivesOneSampleOut : Prop :=
  ∀ s : State, s.Ok → s.regs.dstate = .byte 0 →
    (∀ j < s.par.subslot, (s.inputAt j).dmxValid = true ∧ AllReady (s.inputAt j) s.par.channels ∧
      (0 < j → (s.inputAt j).dmxFirst = false)) →
    (∀ j, j + 1 < s.par.subslot → ∃ t, s.ran (j + 1) = some t ∧
      t.out.dmxOutValid = List.replicate s.par.channels false) ∧
    ∃ t, s.ran s.par.subslot = some t ∧ t.regs.dstate = .byte 0 ∧
      t.regs.chan = (if (s.inputAt 0).dmxFirst then 0 else (s.regs.chan + 1) % s.par.channels) ∧
      t.out.dmxOutValid = (List.range s.par.channels).map (fun c => t.regs.chan == c) ∧
      t.out.dmxHandoff = t.out.dmxOutValid ∧
      t.out.dmxOutSample =
        assemble s.par.depth ((List.range s.par.subslot).map fun j => (s.inputAt j).dmxByte)

/-- R181: in a run whose first consumed byte alone is marked and whose consumers are all ready, the n-th consumed byte is
byte `n mod S` of a subframe of channel `(n div S) mod C`. -/
def Obligations.PositionIsTheCountOfConsumedBytes : Prop :=
  ∀ (s : State) (k : Nat), s.Ok → s.regs.dstate = .byte 0 →
    (∀ j < k, AllReady (s.inputAt j) s.par.channels ∧
      ((s.inputAt j).dmxValid = true → ((s.inputAt j).dmxFirst = true ↔
        ((List.range j).filter fun i => (s.inputAt i).dmxValid) = []))) →
    ∃ t n, s.ran k = some t ∧ n = ((List.range k).filter fun i => (s.inputAt i).dmxValid).length ∧
      (∃ m : Fin 4, t.regs.dstate = .byte m ∧ m.val = n % s.par.subslot) ∧
      (0 < n → t.regs.chan = (n - 1) / s.par.subslot % s.par.channels) ∧
      (0 < k → t.out.framingError = false)

/-- R307, R317: the tick of a framing violation differs from the tick on which the same beat is not offered in DSTATE and
in the demultiplexer's ports, and in nothing else: nothing is saved, nothing is emitted, the beat is not taken. -/
def Obligations.FramingViolationTouchesNothingElse : Prop :=
  ∀ (s t u : State) (x : Inputs) (xs : List Inputs) (k : Fin 4), s.Ok → s.stimulus = x :: xs →
    s.regs.dstate = .byte k → 0 < k.val → s.go = true → x.dmxFirst = true → step s = .next t →
    step { s with stimulus := { x with dmxValid := false } :: xs } = .next u →
    t = { u with
      regs := { u.regs with dstate := .error }
      next := { u.next with dstate := .error }
      out := demuxSilent u.out s.par.channels false false true }

/-- R185, R308, R309: a framing violation and the resynchronisation on the same beat lead, in one tick more, to the
demultiplexer's registers of a machine that took the marked beat in BYTE0. -/
def Obligations.RecoveryEqualsAFreshStart : Prop :=
  ∀ (s : State) (x : Inputs) (xs : List Inputs) (k : Fin 4), s.Ok → s.stimulus = x :: x :: xs →
    s.regs.dstate = .byte k → 0 < k.val → s.go = true → x.dmxFirst = true →
    ∃ t u, s.ran 2 = some t ∧ { s with regs := { s.regs with dstate := .byte 0 } }.ran 1 = some u ∧
      t.regs.dstate = .byte 1 ∧ t.regs.chan = 0 ∧ t.regs.sub = s.regs.sub.set 0 x.dmxByte ∧
      u.regs.dstate = .byte 1 ∧ u.regs.chan = 0 ∧ u.regs.sub = t.regs.sub ∧
      t.out.dmxConsumed = true ∧ t.out.framingError = false

/-- R179, R351: a tick emits on at most one channel, and when the consumers are all ready or none, no emitted sample is
lost. -/
def Obligations.EmissionIsOneHotAndHandedOff : Prop :=
  ∀ s t : State, s.Ok → step s = .next t →
    t.out.dmxOutValid.length = s.par.channels ∧ t.out.dmxOutValid.count true ≤ 1 ∧
    (t.out.dmxOutValid.count true = 0 → t.out.dmxOutSample = 0) ∧
    (s.ReadyTogether → t.out.dmxHandoff = t.out.dmxOutValid)

/-! ### StreamFramer, the multiplexer (43_stream_mux.md) -/

/-- R204, R205, R206 with R202, R203, R207: MUX.HOLD, MUX.BYTE and MUX.WRAP. -/
def Obligations.MultiplexerOperations : Prop :=
  (∀ l, (Instr.muxHold l).encode = if l then 0b01 else 0b00) ∧
  Instr.muxByte.encode = 0b10 ∧ Instr.muxWrap.encode = 0b11 ∧
  ∀ (s : State) (v : Nat) (byte : Byte), s.par.hasMux = true → s.regs.off.toNat < s.par.subslot →
    v = s.inp.muxSample.getD s.regs.sel.toNat 0 % 2 ^ s.par.bits →
    byte = BitVec.ofNat 8 (v * 2 ^ s.par.depth.pad / 2 ^ (8 * s.regs.off.toNat)) →
    (s.inp.muxReady = false → exec (.muxHold (s.regs.off.toNat == s.par.subslot - 1)) s =
      .next { s with out := { s.out with
        muxOutValid := true, muxOutByte := byte, muxSReady := [false, false], muxHandoff := [false, false] } }) ∧
    (s.inp.muxReady = true → s.regs.off.toNat ≠ s.par.subslot - 1 → exec .muxByte s =
      .next { s with
        next := { s.next with off := s.regs.off + 1 }
        out := { s.out with
          muxOutValid := true, muxOutByte := byte, muxSReady := [false, false], muxHandoff := [false, false] } }) ∧
    (s.inp.muxReady = true → s.regs.off.toNat = s.par.subslot - 1 → exec .muxWrap s =
      .next { s with
        next := { s.next with off := 0, sel := !s.regs.sel }
        out := { s.out with
          muxOutValid := true
          muxOutByte := byte
          muxSReady := [!s.regs.sel, s.regs.sel]
          muxHandoff := [!s.regs.sel && s.inp.muxValid.getD 0 false, s.regs.sel && s.inp.muxValid.getD 1 false] } })

/-- R96, R210: unpacking a packed sample gives it back, for every depth. -/
def Obligations.UnpackingInvertsPacking : Prop :=
  ∀ (d : BitDepth) (v : Nat), v < 2 ^ d.bits →
    assemble d ((List.range d.subslot).map fun j => byteAt (packSample d v) j) = v

/-- R208: from the reset offset and selector, after n accepted bytes the offset is `n mod S` and the selected channel
`(n div S) mod 2`. -/
def Obligations.OffsetAndSelectorCountAcceptedBytes : Prop :=
  ∀ (s : State) (k : Nat), s.Ok → s.par.hasMux = true → s.regs.off = 0 → s.regs.sel = false →
    ∃ t n, s.ran k = some t ∧ n = ((List.range k).filter fun j => (s.inputAt j).muxReady).length ∧
      t.regs.off.toNat = n % s.par.subslot ∧ t.regs.sel.toNat = n / s.par.subslot % 2

/-- R210: the multiplexer's bytes fed to the demultiplexer, the very first one marked, reproduce every sample, in
order, on its channel, on the tick its last byte passes, which is the tick its producer is relieved of it. -/
def Obligations.LoopbackReproducesEverySample : Prop :=
  ∀ (s : State) (n : Nat) (v : Nat → Nat), s.Ok → s.par.hasMux = true →
    s.regs.off = 0 → s.regs.sel = false → s.regs.dstate = .byte 0 →
    (∀ j < n * s.par.subslot, (s.inputAt j).muxReady = true ∧ (s.inputAt j).dmxValid = true ∧
      AllReady (s.inputAt j) 2 ∧ ((s.inputAt j).dmxFirst = true ↔ j = 0) ∧
      (s.ran (j + 1)).map (fun u => u.out.muxOutByte) = some (s.inputAt j).dmxByte) →
    (∀ m < n, ∀ j < s.par.subslot,
      (s.inputAt (m * s.par.subslot + j)).muxSample[m % 2]? = some (v m) ∧ v m < 2 ^ s.par.bits) →
    ∀ m < n, ∃ t, s.ran (m * s.par.subslot + s.par.subslot) = some t ∧
      t.out.dmxOutSample = v m ∧
      t.out.dmxOutValid = [m % 2 == 0, m % 2 == 1] ∧ t.out.muxSReady = [m % 2 == 0, m % 2 == 1]

/-! ### Delta-sigma DAC (44_delta_sigma_dac.md) -/

/-- R222 to R225: DSM.HOLD, DSM.MOD, DSM.UPDATE and DSM.MODUPD, every channel from the values before the tick; the pins
are those of ACC before the tick. -/
def Obligations.ModulatorOperations : Prop :=
  Instr.dsmHold.encode = 0b00 ∧ Instr.dsmMod.encode = 0b01 ∧ Instr.dsmUpdate.encode = 0b10 ∧
  Instr.dsmModupd.encode = 0b11 ∧
  ∀ (s : State) (pins : List Bool) (sums held : List Nat), s.par.hasDac = true →
    pins = (List.range s.par.channels).map (fun c => (s.regs.acc.getD c 0).testBit s.par.bits) →
    sums = (List.range s.par.channels).map (fun c => s.regs.acc.getD c 0 % 2 ^ s.par.bits + s.regs.r.getD c 0) →
    held = (List.range s.par.channels).map (fun c =>
      if s.par.signed then s.regs.h.getD c 0 ^^^ 2 ^ (s.par.bits - 1) else s.regs.h.getD c 0) →
    (s.regs.seq ≠ .latch → s.regs.cntPulse ≠ 0 → exec .dsmHold s =
      .next { s with out := { s.out with dacOut := pins } }) ∧
    (s.regs.seq ≠ .latch → s.regs.cntPulse = 0 → exec .dsmMod s =
      .next { s with next := { s.next with acc := sums }, out := { s.out with dacOut := pins } }) ∧
    (s.regs.seq = .latch → s.regs.cntPulse ≠ 0 → exec .dsmUpdate s =
      .next { s with next := { s.next with r := held }, out := { s.out with dacOut := pins } }) ∧
    (s.regs.seq = .latch → s.regs.cntPulse = 0 → exec .dsmModupd s =
      .next { s with next := { s.next with acc := sums, r := held }, out := { s.out with dacOut := pins } })

/-- R230 to R233 with R237: SEQ.WAIT, SEQ.FIRE, SEQ.READ and SEQ.LATCH. -/
def Obligations.SequencerOperations : Prop :=
  Instr.seqWait.encode = 0b000 ∧ Instr.seqFire.encode = 0b001 ∧
  (∀ t, (Instr.seqRead t).encode = if t then 0b011 else 0b010) ∧
  (∀ t, (Instr.seqLatch t).encode = if t then 0b101 else 0b100) ∧
  ∀ (s : State) (room : List Bool), s.par.hasDac = true →
    room = (List.range s.par.channels).map
      (fun c => !decide ((s.regs.q.getD c { items := [], last := 0 }).items.length = 16)) →
    (s.regs.seq = .wait → s.regs.cntSample ≠ 0 → exec .seqWait s =
      .next { s with out := { s.out with update := false, qReady := room } }) ∧
    (s.regs.seq = .wait → s.regs.cntSample = 0 → exec .seqFire s =
      .next { s with next := { s.next with seq := .channelRead }
                     out := { s.out with update := false, qReady := room } }) ∧
    (s.regs.seq = .channelRead → exec (.seqRead (s.regs.cntSample == 0)) s =
      .next { s with
        next := { s.next with
          h := (List.range s.par.channels).map fun c =>
            match s.regs.q.getD c { items := [], last := 0 } with
            | ⟨[], _⟩ => s.regs.h.getD c 0
            | ⟨x :: _, _⟩ => x
          q := (List.range s.par.channels).map fun c =>
            match s.regs.q.getD c { items := [], last := 0 } with
            | ⟨[], last⟩ => ⟨[], last⟩
            | ⟨x :: rest, _⟩ => ⟨rest, x⟩
          seq := .latch }
        out := { s.out with update := false, qReady := room } }) ∧
    (s.regs.seq = .latch → exec (.seqLatch (s.regs.cntSample == 0)) s =
      .next { s with next := { s.next with seq := .wait }
                     out := { s.out with update := true, qReady := room } })

/-- R98, R224: the offset-binary value of a signed pattern is its number plus `2^(b-1)`; an unsigned sample is kept. -/
def Obligations.OffsetBinaryAddsHalfScale : Prop :=
  ∀ (p : Params) (v : Nat), v < 2 ^ p.bits →
    (p.signed = true → offsetBinary p v = v ^^^ 2 ^ (p.bits - 1) ∧
      (offsetBinary p v : Int) = signedVal p.bits v + 2 ^ (p.bits - 1)) ∧
    (p.signed = false → offsetBinary p v = v)

/-- R223, R226: after a modulation tick the residue is `(A + R) mod 2^b` and the pin is the carry of that addition; the
old carry does not enter. -/
def Obligations.ModulationLeavesResidueAndCarry : Prop :=
  ∀ (s t : State) (c : Nat), s.Ok → s.par.hasDac = true → s.stb = true → c < s.par.channels → step s = .next t →
    ∃ a r : Nat, a = s.accOf c % 2 ^ s.par.bits ∧ r = s.rOf c ∧
      t.accOf c % 2 ^ s.par.bits = (a + r) % 2 ^ s.par.bits ∧
      (pinOf t.par (t.accOf c) = true ↔ 2 ^ s.par.bits ≤ a + r)

/-- R227, R342: while R keeps its value, the modulation ticks among any k ticks give `floor((A0 + K*R) / 2^b)` ones, K
being their number, for every residue A0 to begin with. -/
def Obligations.PulseDensityIsTheFloorOfTheMean : Prop :=
  ∀ (s : State) (k c r : Nat), s.Ok → s.par.hasDac = true → c < s.par.channels →
    (∀ j < k, ∃ u, s.ran j = some u ∧ u.rOf c = r) →
    s.countTicks (fun u v => u.stb && pinOf v.par (v.accOf c)) k =
      (s.accOf c % 2 ^ s.par.bits + s.countTicks (fun u _ => u.stb) k * r) / 2 ^ s.par.bits

/-- R234, from a waiting sequencer: the update comes on the ticks congruent to `CNT0 + 2` modulo `cycles`, the first one
`CNT0 + 2` ticks on (the spec's sentence is about the repeating cycle; before it there is no update). -/
def Obligations.UpdateComesOncePerSamplePeriod : Prop :=
  ∀ (s : State) (k : Nat), s.Ok → s.par.hasDac = true → s.regs.seq = .wait →
    ∃ t, s.ran k = some t ∧ (t.regs.seq = .latch ↔
      s.regs.cntSample + 2 ≤ k ∧ k % s.par.cyclesSample = (s.regs.cntSample + 2) % s.par.cyclesSample)

/-- R231 to R233, R235, R360: three ticks after a sample tick every channel's R takes, at once, the converted sample
that headed its queue one tick after it (or the sample held, of an empty queue); before that no R has changed. -/
def Obligations.AllChannelsUpdateTogether : Prop :=
  ∀ s : State, s.Ok → s.par.hasDac = true → s.regs.seq = .wait → s.sampleTick = true →
    ∃ u v t, s.ran 1 = some u ∧ s.ran 2 = some v ∧ s.ran 3 = some t ∧
      u.regs.r = s.regs.r ∧ v.regs.r = s.regs.r ∧ t.regs.seq = .wait ∧
      t.regs.r = (List.range s.par.channels).map
        (fun c => offsetBinary s.par ((u.qOf c).items.headD (s.hOf c)))

/-- R67, R65, R66, R237, R251: a push and a pop in one tick, on the meter's queue and on every queue of the DAC, each
judged on the occupancy before the tick. -/
def Obligations.PushAndPopInOneTick : Prop :=
  ∀ s t : State, s.Ok → step s = .next t →
    (s.sampleTick = true → s.inp.vuValid = true →
      (0 < s.regs.vq.items.length → s.regs.vq.items.length < 16 →
        t.regs.vq.items = s.regs.vq.items.tail ++ [s.vuSample] ∧ s.regs.vq.items.head? = some t.regs.vq.last) ∧
      (s.regs.vq.items.length = 16 →
        t.regs.vq.items = s.regs.vq.items.tail ∧ s.regs.vq.items.head? = some t.regs.vq.last) ∧
      (s.regs.vq.items.length = 0 →
        t.regs.vq.items = [s.vuSample] ∧ t.regs.vq.last = s.regs.vq.last)) ∧
    (∀ c < s.par.channels, s.par.hasDac = true → s.regs.seq = .channelRead → s.qValid c = true →
      (0 < (s.qOf c).items.length → (s.qOf c).items.length < 16 →
        (t.qOf c).items = (s.qOf c).items.tail ++ [s.qSample c] ∧ (s.qOf c).items.head? = some (t.qOf c).last) ∧
      ((s.qOf c).items.length = 16 →
        (t.qOf c).items = (s.qOf c).items.tail ∧ (s.qOf c).items.head? = some (t.qOf c).last) ∧
      ((s.qOf c).items.length = 0 →
        (t.qOf c).items = [s.qSample c] ∧ (t.qOf c).last = (s.qOf c).last))

/-! ### LevelMeter (45_level_meter.md) -/

/-- R251 to R253: VU.PUSH, VU.REJECT and VU.NOPUSH. -/
def Obligations.MeterInputOperations : Prop :=
  Instr.vuPush.encode = 0b10 ∧ Instr.vuReject.encode = 0b11 ∧
  (∀ n, (Instr.vuNopush n).encode = if n then 0b01 else 0b00) ∧
  (∀ s : State, s.inp.vuValid = true → s.regs.vq.items.length ≠ 16 → exec .vuPush s =
    .next { s with
      next := { s.next with vq := { s.next.vq with items := s.next.vq.items ++ [s.inp.vuSample % 2 ^ s.par.bits] } }
      out := { s.out with vuInReady := true } }) ∧
  (∀ s : State, s.inp.vuValid = true → s.regs.vq.items.length = 16 → exec .vuReject s =
    .next { s with out := { s.out with vuInReady := false } }) ∧
  (∀ s : State, s.inp.vuValid = false → exec (.vuNopush (s.regs.vq.items.length == 16)) s =
    .next { s with out := { s.out with vuInReady := !(s.regs.vq.items.length == 16) } })

/-- R255, R257, R263 with R259, R260: VU.POP, VU.STARVE and VU.KEEP, which show LIT and LEVEL of MAG before the tick. -/
def Obligations.MeterOutputOperations : Prop :=
  Instr.vuPop.encode = 0b10 ∧ Instr.vuStarve.encode = 0b11 ∧
  (∀ m, (Instr.vuKeep m).encode = if m then 0b01 else 0b00) ∧
  (∀ (s : State) (x y last : Nat) (xs ys : List Nat), s.regs.cntSample = 0 → s.regs.vq.items = x :: xs →
    s.next.vq = ⟨y :: ys, last⟩ → exec .vuPop s =
    .next { s with
      next := { s.next with vq := ⟨ys, y⟩, mag := rectify s.par x }
      out := { s.out with lit := litOf s.par.th s.regs.mag, level := levelOf s.par.th s.regs.mag } }) ∧
  (∀ s : State, s.regs.cntSample = 0 → s.regs.vq.items = [] → exec .vuStarve s =
    .next { s with out := { s.out with lit := litOf s.par.th s.regs.mag, level := levelOf s.par.th s.regs.mag } }) ∧
  (∀ s : State, s.regs.cntSample ≠ 0 → exec (.vuKeep s.regs.vq.items.isEmpty) s =
    .next { s with out := { s.out with lit := litOf s.par.th s.regs.mag, level := levelOf s.par.th s.regs.mag } })

/-- R256: the rectifier is the absolute value of a signed pattern, at most `2^(b-1)`, and the identity on an unsigned
one. -/
def Obligations.RectifierIsTheAbsoluteValue : Prop :=
  ∀ (p : Params) (v : Nat), v < 2 ^ p.bits →
    (p.signed = true → (rectify p v : Int) = |signedVal p.bits v| ∧ rectify p v ≤ 2 ^ (p.bits - 1) ∧
      rectify p (2 ^ (p.bits - 1)) = 2 ^ (p.bits - 1)) ∧
    (p.signed = false → rectify p v = v)

/-- R259, R260: bit s of LIT is `MAG >= TH[s]`, LEVEL counts the bits, and on non-decreasing thresholds the bar fills
from below: `LIT = 2^LEVEL - 1`. The last clause, that the level does not fall as the magnitude rises, is R261, which the
spec derives from R260. -/
def Obligations.BarFillsFromBelow : Prop :=
  ∀ (th : List Nat) (mag : Nat),
    (∀ n, (litOf th mag).testBit n = (th[n]?.any fun v => decide (v ≤ mag))) ∧
    levelOf th mag = ((List.range th.length).filter fun n => (litOf th mag).testBit n).length ∧
    (th.Pairwise (· ≤ ·) → litOf th mag = 2 ^ levelOf th mag - 1) ∧
    (∀ more, mag ≤ more → levelOf th mag ≤ levelOf th more)

/-- R258, R345 (6): `TH[s]`, as computed and as a constructed machine holds it, is `floor(pow(G, s/G) / G * M)` in exact
real arithmetic, and the largest T of the integer form. -/
def Obligations.ThresholdsAreTheFloorsOfTheLogScale : Prop :=
  (∀ g b i m : Nat, 1 ≤ g → 1 ≤ b → i < g → m = 2 ^ (b - 1) - 1 →
    (threshold g b i : ℤ) = ⌊(g : ℝ) ^ ((i : ℝ) / g) / g * m⌋ ∧
    ∀ v : Nat, v ≤ threshold g b i ↔ v ^ g * g ^ (g - i) ≤ m ^ g) ∧
  (∀ (cfg : Config) (s : State), construct cfg = .ok s → s.par.th.length = cfg.segments ∧
    ∀ i < cfg.segments, ∃ th, s.par.th[i]? = some th ∧
      (th : ℤ) = ⌊(cfg.segments : ℝ) ^ ((i : ℝ) / cfg.segments) / cfg.segments *
        (2 ^ (cfg.bitDepth - 1) - 1 : ℝ)⌋)

/-- R258: the thresholds are non-decreasing, none exceeds M, and the first is `floor(M / G)`. -/
def Obligations.ThresholdsAreNonDecreasingWithinFullScale : Prop :=
  ∀ g b m : Nat, 1 ≤ g → 1 ≤ b → m = 2 ^ (b - 1) - 1 →
    (cfgLogscale g b).length = g ∧ (cfgLogscale g b).Pairwise (· ≤ ·) ∧ (∀ v ∈ cfgLogscale g b, v ≤ m) ∧
    (cfgLogscale g b).head? = some (m / g)

/-! ### FeedbackComputer (46_feedback_computer.md) -/

/-- R69, R284: FB.READ gives byte `fb_index` of FB, index 0 the least significant, and changes no register. -/
def Obligations.FeedbackReadOperation : Prop :=
  (∀ i : BitVec 2, (Instr.fbRead i).encode = i.setWidth 5) ∧
  ∀ s : State, exec (.fbRead s.inp.fbIndex) s =
    .next { s with out := { s.out with fbByte := s.par.fb.extractLsb' (8 * s.inp.fbIndex.toNat) 8 } }

/-- R281, R282, R285: FB is the rate's samples per microframe, scaled and rounded to nearest, on every tick. -/
def Obligations.FeedbackValueIsTheRoundedRate : Prop :=
  ∀ (cfg : Config) (made s t : State) (xs : List Inputs) (k : Nat), construct cfg = .ok made →
    s = { made with stimulus := xs } → s.ran k = some t →
    (t.par.fb.toNat : Int) = roundHalfEven (cfg.sampleRateHz / 8000 * 2 ^ cfg.fbShift) ∧
    |(t.par.fb.toNat : ℚ) - cfg.sampleRateHz / 8000 * 2 ^ cfg.fbShift| ≤ 1 / 2
end

