-- ==== Sys2Proof/Laws/State.lean ====
section
/-! SUPPORT. Laws/State: one lemma per field per update of State, true by rfl (or by the cases of a divider). -/

namespace Sys2Proof.Machine

@[simp] theorem State.write_par (s : State) (f : Regs → Regs) : (s.write f).par = s.par := rfl
@[simp] theorem State.write_regs (s : State) (f : Regs → Regs) : (s.write f).regs = s.regs := rfl
@[simp] theorem State.write_stimulus (s : State) (f : Regs → Regs) : (s.write f).stimulus = s.stimulus := rfl
@[simp] theorem State.write_tick (s : State) (f : Regs → Regs) : (s.write f).tick = s.tick := rfl
@[simp] theorem State.write_next (s : State) (f : Regs → Regs) : (s.write f).next = f s.next := rfl
@[simp] theorem State.write_out (s : State) (f : Regs → Regs) : (s.write f).out = s.out := rfl
@[simp] theorem State.driveNco_par (s : State) : (s.driveNco).par = s.par := rfl
@[simp] theorem State.driveNco_regs (s : State) : (s.driveNco).regs = s.regs := rfl
@[simp] theorem State.driveNco_stimulus (s : State) : (s.driveNco).stimulus = s.stimulus := rfl
@[simp] theorem State.driveNco_tick (s : State) : (s.driveNco).tick = s.tick := rfl
@[simp] theorem State.driveNco_next (s : State) : (s.driveNco).next = s.next := rfl
@[simp] theorem State.driveDmx_par (s : State) (a : Bool) (e : Option (Nat × Pattern)) (v : Bool) : (s.driveDmx a e v).par = s.par := rfl
@[simp] theorem State.driveDmx_regs (s : State) (a : Bool) (e : Option (Nat × Pattern)) (v : Bool) : (s.driveDmx a e v).regs = s.regs := rfl
@[simp] theorem State.driveDmx_stimulus (s : State) (a : Bool) (e : Option (Nat × Pattern)) (v : Bool) : (s.driveDmx a e v).stimulus = s.stimulus := rfl
@[simp] theorem State.driveDmx_tick (s : State) (a : Bool) (e : Option (Nat × Pattern)) (v : Bool) : (s.driveDmx a e v).tick = s.tick := rfl
@[simp] theorem State.driveDmx_next (s : State) (a : Bool) (e : Option (Nat × Pattern)) (v : Bool) : (s.driveDmx a e v).next = s.next := rfl
@[simp] theorem State.driveMux_par (s : State) (p : Bool) : (s.driveMux p).par = s.par := rfl
@[simp] theorem State.driveMux_regs (s : State) (p : Bool) : (s.driveMux p).regs = s.regs := rfl
@[simp] theorem State.driveMux_stimulus (s : State) (p : Bool) : (s.driveMux p).stimulus = s.stimulus := rfl
@[simp] theorem State.driveMux_tick (s : State) (p : Bool) : (s.driveMux p).tick = s.tick := rfl
@[simp] theorem State.driveMux_next (s : State) (p : Bool) : (s.driveMux p).next = s.next := rfl
@[simp] theorem State.driveDac_par (s : State) : (s.driveDac).par = s.par := rfl
@[simp] theorem State.driveDac_regs (s : State) : (s.driveDac).regs = s.regs := rfl
@[simp] theorem State.driveDac_stimulus (s : State) : (s.driveDac).stimulus = s.stimulus := rfl
@[simp] theorem State.driveDac_tick (s : State) : (s.driveDac).tick = s.tick := rfl
@[simp] theorem State.driveDac_next (s : State) : (s.driveDac).next = s.next := rfl
@[simp] theorem State.driveSeq_par (s : State) : (s.driveSeq).par = s.par := rfl
@[simp] theorem State.driveSeq_regs (s : State) : (s.driveSeq).regs = s.regs := rfl
@[simp] theorem State.driveSeq_stimulus (s : State) : (s.driveSeq).stimulus = s.stimulus := rfl
@[simp] theorem State.driveSeq_tick (s : State) : (s.driveSeq).tick = s.tick := rfl
@[simp] theorem State.driveSeq_next (s : State) : (s.driveSeq).next = s.next := rfl
@[simp] theorem State.driveVuIn_par (s : State) : (s.driveVuIn).par = s.par := rfl
@[simp] theorem State.driveVuIn_regs (s : State) : (s.driveVuIn).regs = s.regs := rfl
@[simp] theorem State.driveVuIn_stimulus (s : State) : (s.driveVuIn).stimulus = s.stimulus := rfl
@[simp] theorem State.driveVuIn_tick (s : State) : (s.driveVuIn).tick = s.tick := rfl
@[simp] theorem State.driveVuIn_next (s : State) : (s.driveVuIn).next = s.next := rfl
@[simp] theorem State.driveVuOut_par (s : State) : (s.driveVuOut).par = s.par := rfl
@[simp] theorem State.driveVuOut_regs (s : State) : (s.driveVuOut).regs = s.regs := rfl
@[simp] theorem State.driveVuOut_stimulus (s : State) : (s.driveVuOut).stimulus = s.stimulus := rfl
@[simp] theorem State.driveVuOut_tick (s : State) : (s.driveVuOut).tick = s.tick := rfl
@[simp] theorem State.driveVuOut_next (s : State) : (s.driveVuOut).next = s.next := rfl
@[simp] theorem State.driveRdiv_par (s : State) (d : Divider) : (s.driveRdiv d).par = s.par := by cases d <;> rfl
@[simp] theorem State.driveRdiv_regs (s : State) (d : Divider) : (s.driveRdiv d).regs = s.regs := by cases d <;> rfl
@[simp] theorem State.driveRdiv_stimulus (s : State) (d : Divider) : (s.driveRdiv d).stimulus = s.stimulus := by cases d <;> rfl
@[simp] theorem State.driveRdiv_tick (s : State) (d : Divider) : (s.driveRdiv d).tick = s.tick := by cases d <;> rfl
@[simp] theorem State.driveRdiv_next (s : State) (d : Divider) : (s.driveRdiv d).next = s.next := by cases d <;> rfl
@[simp] theorem State.writeCnt_par (s : State) (d : Divider) (v : Nat) : (s.writeCnt d v).par = s.par := by cases d <;> rfl
@[simp] theorem State.writeCnt_regs (s : State) (d : Divider) (v : Nat) : (s.writeCnt d v).regs = s.regs := by cases d <;> rfl
@[simp] theorem State.writeCnt_stimulus (s : State) (d : Divider) (v : Nat) : (s.writeCnt d v).stimulus = s.stimulus := by cases d <;> rfl
@[simp] theorem State.writeCnt_tick (s : State) (d : Divider) (v : Nat) : (s.writeCnt d v).tick = s.tick := by cases d <;> rfl
@[simp] theorem State.writeCnt_out (s : State) (d : Divider) (v : Nat) : (s.writeCnt d v).out = s.out := by cases d <;> rfl
@[simp] theorem State.beginTick_par (s : State) : (s.beginTick).par = s.par := rfl
@[simp] theorem State.beginTick_regs (s : State) : (s.beginTick).regs = s.regs := rfl
@[simp] theorem State.beginTick_stimulus (s : State) : (s.beginTick).stimulus = s.stimulus := rfl
@[simp] theorem State.beginTick_tick (s : State) : (s.beginTick).tick = s.tick := rfl
@[simp] theorem State.beginTick_next (s : State) : (s.beginTick).next = s.regs := rfl
@[simp] theorem State.beginTick_out (s : State) : (s.beginTick).out = {} := rfl
@[simp] theorem State.pushQueues_par (s : State) : (s.pushQueues).par = s.par := by unfold State.pushQueues; split <;> rfl
@[simp] theorem State.pushQueues_regs (s : State) : (s.pushQueues).regs = s.regs := by unfold State.pushQueues; split <;> rfl
@[simp] theorem State.pushQueues_stimulus (s : State) : (s.pushQueues).stimulus = s.stimulus := by unfold State.pushQueues; split <;> rfl
@[simp] theorem State.pushQueues_tick (s : State) : (s.pushQueues).tick = s.tick := by unfold State.pushQueues; split <;> rfl
@[simp] theorem State.pushQueues_out (s : State) : (s.pushQueues).out = s.out := by unfold State.pushQueues; split <;> rfl
@[simp] theorem State.endTick_par (s : State) : (s.endTick).par = s.par := by simp [State.endTick]
@[simp] theorem State.endTick_regs (s : State) : (s.endTick).regs = s.pushQueues.next := by simp [State.endTick]
@[simp] theorem State.endTick_stimulus (s : State) : (s.endTick).stimulus = s.stimulus.tail := by simp [State.endTick]
@[simp] theorem State.endTick_tick (s : State) : (s.endTick).tick = s.tick + 1 := by simp [State.endTick]
@[simp] theorem State.endTick_next (s : State) : (s.endTick).next = s.pushQueues.next := by simp [State.endTick]
@[simp] theorem State.endTick_out (s : State) : (s.endTick).out = s.out := by simp [State.endTick]
@[simp] theorem State.mapRegs_par (s : State) (f : Regs → Regs) : (s.mapRegs f).par = s.par := rfl
@[simp] theorem State.mapInputs_par (s : State) (f : Inputs → Inputs) : (s.mapInputs f).par = s.par := rfl
@[simp] theorem State.mapRegs_stimulus (s : State) (f : Regs → Regs) : (s.mapRegs f).stimulus = s.stimulus := rfl
@[simp] theorem State.mapRegs_tick (s : State) (f : Regs → Regs) : (s.mapRegs f).tick = s.tick := rfl
@[simp] theorem State.mapInputs_tick (s : State) (f : Inputs → Inputs) : (s.mapInputs f).tick = s.tick := rfl
@[simp] theorem State.mapRegs_regs (s : State) (f : Regs → Regs) : (s.mapRegs f).regs = f s.regs := rfl
@[simp] theorem State.mapInputs_regs (s : State) (f : Inputs → Inputs) : (s.mapInputs f).regs = s.regs := rfl
@[simp] theorem State.mapInputs_inp (s : State) (f : Inputs → Inputs) : (s.mapInputs f).inp = f (s.stimulus.headD {}) := rfl

end Sys2Proof.Machine
end

