-- ==== Sys2Proof/Laws/Ops.lean ====
section
/-! SUPPORT. Laws/Ops: for each shared operation, once, everything it can do; FIFOs keep their form. -/

namespace Sys2Proof.Machine

/-- What an operation answers: a next state only when its word is its block's control word, and then the state of
its meaning. -/
theorem State.perform_next_iff {s t u : State} {i : Instr} :
    s.perform i u = .next t ↔ s.controlWord i.block = some i.encode ∧ u = t := by
  unfold State.perform
  split <;> simp_all

/-- A selected operation fires. -/
theorem State.perform_of_selected {s u : State} {i : Instr} (h : s.controlWord i.block = some i.encode) :
    s.perform i u = .next u := by
  rw [State.perform, if_pos h]

/-- The inputs of a tick are fixed by the trace and the tick number. -/
theorem State.inp_congr {s t : State} (h1 : s.stimulus = t.stimulus) (h2 : s.tick = t.tick) : s.inp = t.inp := by
  simp only [State.inp, h1, h2]

/-- Every control word is fixed by the constants, the registers before the tick and the inputs. -/
theorem State.controlWord_congr {s t : State} (hp : s.par = t.par) (hr : s.regs = t.regs) (hi : s.inp = t.inp) :
    s.controlWord = t.controlWord := by
  have hready : s.dmxReady = t.dmxReady := by funext c; simp only [State.dmxReady, hi]
  funext b
  cases b <;>
    simp only [State.controlWord, State.pulse, State.cnt, State.inError, State.atByte, State.go, State.anyReady,
      State.perChannel, State.atLastOffset, State.update, State.stb, State.sampleTick, hp, hr, hi, hready]

/-- Taking the framing violation: what is written and what is driven (R307). -/
theorem State.raiseFramingViolation_spec (s : State) :
    s.raiseFramingViolation.next = { s.next with dstate := .error } ∧
    s.raiseFramingViolation.regs = s.regs ∧
    s.raiseFramingViolation.out.framingError = true ∧
    s.raiseFramingViolation.out.dmxInReady = false := by
  refine ⟨rfl, rfl, rfl, rfl⟩

/-- The framing violation is the exception that its tick raises, by name (R306, R316). -/
@[simp] theorem State.raiseFramingViolation_raised (s : State) :
    s.raiseFramingViolation.raised = some .framingViolation := rfl

/-- A tick raises an exception exactly when it shows the strobe. -/
theorem State.raised_iff (s : State) (e : ErrorName) :
    s.raised = some e ↔ s.out.framingError = true ∧ e = .framingViolation := by
  cases h : s.out.framingError <;> cases e <;> simp [State.raised, h]

/-- The start of a subframe: what is written (R174, R178). -/
theorem State.startSubframe_spec (s : State) (ch : Nat) :
    (s.startSubframe ch).next =
      { s.next with chan := ch, sub := s.regs.sub.set 0 s.inp.dmxByte, dstate := .byte 1 } ∧
    (s.startSubframe ch).regs = s.regs ∧ (s.startSubframe ch).out.dmxInReady = true := by
  refine ⟨rfl, rfl, rfl⟩

/-! ### FIFOs -/

@[simp] theorem Fifo.append_last (q : Fifo) (v : Pattern) : (q.append v).last = q.last := rfl
@[simp] theorem Fifo.append_items (q : Fifo) (v : Pattern) : (q.append v).items = q.items ++ [v] := rfl
@[simp] theorem Fifo.pop_nil (l : Pattern) : Fifo.pop ⟨[], l⟩ = ⟨[], l⟩ := rfl
@[simp] theorem Fifo.pop_cons (x l : Pattern) (xs : List Pattern) : Fifo.pop ⟨x :: xs, l⟩ = ⟨xs, x⟩ := rfl

theorem Fifo.pop_items (q : Fifo) : q.pop.items = q.items.tail := by
  obtain ⟨items, last⟩ := q
  cases items <;> rfl

theorem Fifo.isFull_iff (q : Fifo) : q.isFull = true ↔ q.items.length = 16 := by
  simp [Fifo.isFull]

theorem Fifo.isEmpty_iff (q : Fifo) : q.isEmpty = true ↔ q.items = [] := by
  simp [Fifo.isEmpty]

/-- A push behind a pop is a pop before a push, on a FIFO that is not empty (R67). -/
theorem Fifo.pop_append_comm {q : Fifo} (h : q.items ≠ []) (v : Pattern) : (q.append v).pop = q.pop.append v := by
  obtain ⟨items, last⟩ := q
  cases items with
  | nil => exact absurd rfl h
  | cons x xs => rfl

/-- Popping keeps the form. -/
theorem Fifo.Ok.pop {b : Nat} {q : Fifo} (h : q.Ok b) : q.pop.Ok b := by
  obtain ⟨items, last⟩ := q
  cases items with
  | nil => exact h
  | cons x xs =>
    obtain ⟨h1, h2, -⟩ := h
    refine ⟨?_, fun v hv => h2 v (List.mem_cons_of_mem _ hv), h2 x List.mem_cons_self⟩
    simp only [List.length_cons, Fifo.pop_cons] at *
    omega

/-- Pushing a b-bit sample keeps the form of a FIFO with room. -/
theorem Fifo.Ok.append {b : Nat} {q : Fifo} {v : Pattern} (h : q.Ok b) (hv : v < 2 ^ b) (hroom : q.items.length < 16) :
    (q.append v).Ok b := by
  obtain ⟨-, h2, h3⟩ := h
  refine ⟨by simpa using hroom, ?_, h3⟩
  intro x hx
  rcases List.mem_append.1 hx with hx | hx
  · exact h2 x hx
  · rw [List.mem_singleton.1 hx]; exact hv

/-- A FIFO after reset has the form. -/
theorem Fifo.reset_ok (b : Nat) : Fifo.reset.Ok b := by
  refine ⟨by decide, ?_, Nat.two_pow_pos b⟩
  intro v hv
  cases hv

/-! ### Per-channel lists -/

@[simp] theorem State.perChannel_length {α : Type} (s : State) (f : Nat → α) :
    (s.perChannel f).length = s.par.channels := by
  simp [State.perChannel]

theorem State.perChannel_getD {α : Type} (s : State) (f : Nat → α) (d : α) {c : Nat} (hc : c < s.par.channels) :
    (s.perChannel f).getD c d = f c := by
  simp [State.perChannel, hc]

theorem State.perChannel_congr {α : Type} {s t : State} {f g : Nat → α} (hp : s.par = t.par)
    (h : ∀ c, c < s.par.channels → f c = g c) : s.perChannel f = t.perChannel g := by
  simp only [State.perChannel, ← hp]
  exact List.map_congr_left fun c hc => h c (List.mem_range.1 hc)

theorem State.mem_perChannel {α : Type} {s : State} {f : Nat → α} {x : α} :
    x ∈ s.perChannel f ↔ ∃ c, c < s.par.channels ∧ f c = x := by
  simp [State.perChannel]

end Sys2Proof.Machine
end

