-- ==== Sys2Proof/Laws/Blocks.lean ====
section
/-! SUPPORT. Laws/Blocks: what each block does on a tick, once: the operation its control word selects, written out as
one update of the registers after the tick and of the block's ports. -/

namespace Sys2Proof.Machine

-- one theorem at a time: the stacks of many waiting threads exhaust the memory limit of a check
set_option Elab.async false

/-- A block whose word decodes to an operation performs it. -/
theorem runBlock_of_fetch {b : Block} {u : State} {i : Instr} (hw : u.controlWord b = some i.encode)
    (hd : decode b i.encode = .ok i) : runBlock b u = exec i u := by
  simp only [runBlock, State.fetch, hw, hd]

/-- A RateDivider's tick (R126, R127). -/
theorem runBlock_rdiv (d : Divider) (u : State) :
    runBlock (.rdiv d) u = .next ((u.driveRdiv d).writeCnt d (u.cntAfter d)) := by
  by_cases h : u.cnt d = 0
  · have hw : u.controlWord (.rdiv d) = some (Instr.rdivReload d).encode := by
      simp [State.controlWord, State.pulse, h, Instr.encode]
    rw [runBlock_of_fetch (i := .rdivReload d) hw (by cases d <;> rfl)]
    simp only [exec, execRdivReload, State.perform_of_selected (i := .rdivReload d) hw, State.cntAfter, if_pos h]
  · have hw : u.controlWord (.rdiv d) = some (Instr.rdivCount d).encode := by
      simp only [State.controlWord, State.pulse, beq_eq_false_iff_ne.2 h, Instr.encode]
    rw [runBlock_of_fetch (i := .rdivCount d) hw (by cases d <;> rfl)]
    simp only [exec, execRdivCount, State.perform_of_selected (i := .rdivCount d) hw, State.cntAfter, if_neg h]

/-- The Oscillator's tick (R147, R148): PHASE is written when the consumer is ready. -/
theorem runBlock_nco (u : State) :
    runBlock .nco u =
      .next (u.driveNco.write fun n => { n with phase := if u.inp.ncoReady then u.phaseAfter else n.phase }) := by
  cases h : u.inp.ncoReady
  · have hw : u.controlWord .nco = some Instr.ncoHold.encode := by simp [State.controlWord, h, Instr.encode]
    rw [runBlock_of_fetch hw rfl]
    simp only [exec, execNcoHold, State.perform_of_selected (i := .ncoHold) hw, Bool.false_eq_true, if_false]
    rfl
  · have hw : u.controlWord .nco = some Instr.ncoAdvance.encode := by simp [State.controlWord, h, Instr.encode]
    rw [runBlock_of_fetch hw rfl]
    simp only [exec, execNcoAdvance, State.perform_of_selected (i := .ncoAdvance) hw, State.phaseAfter, h, trunc,
      if_true]

/-- The FeedbackComputer's tick (R284). -/
theorem runBlock_fb (u : State) :
    runBlock .fb u = .next { u with out := { u.out with fbByte := feedbackByte u.par.fb u.inp.fbIndex } } := by
  have hd : ∀ i : BitVec 2, decode .fb (Instr.fbRead i).encode = .ok (.fbRead i) := by decide
  have hw : u.controlWord .fb = some (Instr.fbRead u.inp.fbIndex).encode := by simp [State.controlWord, Instr.encode]
  rw [runBlock_of_fetch hw (hd _)]
  simp only [exec, execFbRead, State.perform_of_selected (i := .fbRead u.inp.fbIndex) hw]

/-- The meter's input side (R251 to R253): a sample goes in when one is offered and there was room. -/
theorem runBlock_vui (u : State) :
    runBlock .vui u =
      .next (u.driveVuIn.write fun n =>
        { n with vq := if u.inp.vuValid && !u.regs.vq.isFull then n.vq.append u.vuSample else n.vq }) := by
  cases hv : u.inp.vuValid
  · have hw : u.controlWord .vui = some (Instr.vuNopush u.regs.vq.isFull).encode := by
      simp [State.controlWord, hv, Instr.encode]
    rw [runBlock_of_fetch hw (by cases u.regs.vq.isFull <;> rfl)]
    simp only [exec, execVuNopush, State.perform_of_selected (i := .vuNopush u.regs.vq.isFull) hw,
      Bool.false_and, Bool.false_eq_true, if_false]
    rfl
  · cases hn : u.regs.vq.isFull
    · have hw : u.controlWord .vui = some Instr.vuPush.encode := by simp [State.controlWord, hv, hn, Instr.encode]
      rw [runBlock_of_fetch hw rfl]
      simp only [exec, execVuPush, State.perform_of_selected (i := .vuPush) hw, Bool.not_false, Bool.and_self, if_true]
    · have hw : u.controlWord .vui = some Instr.vuReject.encode := by simp [State.controlWord, hv, hn, Instr.encode]
      rw [runBlock_of_fetch hw rfl]
      simp only [exec, execVuReject, State.perform_of_selected (i := .vuReject) hw, Bool.not_true, Bool.and_false,
        Bool.false_eq_true, if_false]
      rfl

/-- The meter's output side (R255, R257, R263): a sample comes out on a sample tick when there was one. -/
theorem runBlock_vuo (u : State) :
    runBlock .vuo u =
      .next (u.driveVuOut.write fun n =>
        { n with
          vq := if u.sampleTick && !u.regs.vq.isEmpty then n.vq.pop else n.vq
          mag := if u.sampleTick && !u.regs.vq.isEmpty then rectify u.par u.regs.vq.payload else n.mag }) := by
  cases ht : u.sampleTick
  · have hw : u.controlWord .vuo = some (Instr.vuKeep u.regs.vq.isEmpty).encode := by
      simp [State.controlWord, ht, Instr.encode]
    rw [runBlock_of_fetch hw (by cases u.regs.vq.isEmpty <;> rfl)]
    simp only [exec, execVuKeep, State.perform_of_selected (i := .vuKeep u.regs.vq.isEmpty) hw,
      Bool.false_and, Bool.false_eq_true, if_false]
    rfl
  · cases hm : u.regs.vq.isEmpty
    · have hw : u.controlWord .vuo = some Instr.vuPop.encode := by simp [State.controlWord, ht, hm, Instr.encode]
      rw [runBlock_of_fetch hw rfl]
      simp only [exec, execVuPop, State.perform_of_selected (i := .vuPop) hw, Bool.not_false, Bool.and_self, if_true]
    · have hw : u.controlWord .vuo = some Instr.vuStarve.encode := by simp [State.controlWord, ht, hm, Instr.encode]
      rw [runBlock_of_fetch hw rfl]
      simp only [exec, execVuStarve, State.perform_of_selected (i := .vuStarve) hw, Bool.not_true, Bool.and_false,
        Bool.false_eq_true, if_false]
      rfl

/-- The modulators' tick (R222 to R225). -/
theorem runBlock_dsm (u : State) (h : u.par.hasDac = true) :
    runBlock .dsm u =
      .next (u.driveDac.write fun n =>
        { n with acc := if u.stb then u.modulated else n.acc, r := if u.update then u.latched else n.r }) := by
  cases hu : u.update <;> cases hs : u.stb
  · have hw : u.controlWord .dsm = some Instr.dsmHold.encode := by simp [State.controlWord, h, hu, hs, Instr.encode]
    rw [runBlock_of_fetch hw rfl]
    simp only [exec, execDsmHold, State.perform_of_selected (i := .dsmHold) hw]
    rfl
  · have hw : u.controlWord .dsm = some Instr.dsmMod.encode := by simp [State.controlWord, h, hu, hs, Instr.encode]
    rw [runBlock_of_fetch hw rfl]
    simp only [exec, execDsmMod, State.perform_of_selected (i := .dsmMod) hw]
    rfl
  · have hw : u.controlWord .dsm = some Instr.dsmUpdate.encode := by simp [State.controlWord, h, hu, hs, Instr.encode]
    rw [runBlock_of_fetch hw rfl]
    simp only [exec, execDsmUpdate, State.perform_of_selected (i := .dsmUpdate) hw]
    rfl
  · have hw : u.controlWord .dsm = some Instr.dsmModupd.encode := by simp [State.controlWord, h, hu, hs, Instr.encode]
    rw [runBlock_of_fetch hw rfl]
    simp only [exec, execDsmModupd, State.perform_of_selected (i := .dsmModupd) hw]
    rfl

/-- The sequencer's tick (R230 to R233). -/
theorem runBlock_seq (u : State) (h : u.par.hasDac = true) :
    runBlock .seq u =
      .next (u.driveSeq.write fun n =>
        match u.regs.seq with
        | .wait => { n with seq := if u.sampleTick then .channelRead else n.seq }
        | .channelRead =>
          { n with
            h := u.perChannel fun c => if (u.qOf c).isEmpty then u.hOf c else (u.qOf c).payload
            q := u.perChannel fun c => (u.qOf c).pop
            seq := .latch }
        | .latch => { n with seq := .wait }) := by
  cases hq : u.regs.seq <;> cases ht : u.sampleTick
  · have hw : u.controlWord .seq = some Instr.seqWait.encode := by
      simp [State.controlWord, h, hq, ht, Instr.encode, SeqState.codeBits]
    rw [runBlock_of_fetch hw rfl]
    simp only [exec, execSeqWait, State.perform_of_selected (i := .seqWait) hw]
    rfl
  · have hw : u.controlWord .seq = some Instr.seqFire.encode := by
      simp [State.controlWord, h, hq, ht, Instr.encode, SeqState.codeBits]
    rw [runBlock_of_fetch hw rfl]
    simp only [exec, execSeqFire, State.perform_of_selected (i := .seqFire) hw]
    rfl
  all_goals first
    | (have hw : u.controlWord .seq = some (Instr.seqRead u.sampleTick).encode := by
        simp [State.controlWord, h, hq, ht, Instr.encode, SeqState.codeBits]
       rw [runBlock_of_fetch hw (by rw [ht]; rfl)]
       simp only [exec, execSeqRead, State.perform_of_selected (i := .seqRead u.sampleTick) hw])
    | (have hw : u.controlWord .seq = some (Instr.seqLatch u.sampleTick).encode := by
        simp [State.controlWord, h, hq, ht, Instr.encode, SeqState.codeBits]
       rw [runBlock_of_fetch hw (by rw [ht]; rfl)]
       simp only [exec, execSeqLatch, State.perform_of_selected (i := .seqLatch u.sampleTick) hw])

/-- The multiplexer's tick (R204 to R206). -/
theorem runBlock_mux (u : State) (h : u.par.hasMux = true) (ho : u.par.offReachable u.regs.off = true) :
    runBlock .mux u =
      .next ((u.driveMux (u.inp.muxReady && u.atLastOffset)).write fun n =>
        { n with
          off := if u.inp.muxReady then (if u.atLastOffset then 0 else u.regs.off + 1) else n.off
          sel := if u.inp.muxReady && u.atLastOffset then !u.regs.sel else n.sel }) := by
  cases hr : u.inp.muxReady
  · have hw : u.controlWord .mux = some (Instr.muxHold u.atLastOffset).encode := by
      simp [State.controlWord, h, ho, hr, Instr.encode]
    rw [runBlock_of_fetch hw (by cases u.atLastOffset <;> rfl)]
    simp only [exec, execMuxHold, State.perform_of_selected (i := .muxHold u.atLastOffset) hw,
      Bool.false_and, Bool.false_eq_true, if_false]
    rfl
  · cases hl : u.atLastOffset
    · have hw : u.controlWord .mux = some Instr.muxByte.encode := by
        simp [State.controlWord, h, ho, hr, hl, Instr.encode]
      rw [runBlock_of_fetch hw rfl]
      simp only [exec, execMuxByte, State.perform_of_selected (i := .muxByte) hw, if_true, Bool.and_false,
        Bool.false_eq_true, if_false]
    · have hw : u.controlWord .mux = some Instr.muxWrap.encode := by
        simp [State.controlWord, h, ho, hr, hl, Instr.encode]
      rw [runBlock_of_fetch hw rfl]
      simp only [exec, execMuxWrap, State.perform_of_selected (i := .muxWrap) hw, if_true, Bool.and_self]

/-- The demultiplexer's tick: the row of R182 that holds, in a tick in which nothing has written its registers. -/
theorem runBlock_dmx (u : State) (h : u.par.dstateReachable u.regs.dstate = true)
    (hd : u.next.dstate = u.regs.dstate) (hc : u.next.chan = u.regs.chan) (hs : u.next.sub = u.regs.sub) :
    runBlock .dmx u =
      .next ((u.driveDmx u.dmxRow.inReady u.dmxRow.emit u.dmxRow.violation).write fun n =>
        { n with dstate := u.dmxRow.dstate, chan := u.dmxRow.chan, sub := u.dmxRow.sub }) := by
  have hkeep : u.next = { u.next with dstate := u.regs.dstate, chan := u.regs.chan, sub := u.regs.sub } := by
    rw [← hd, ← hc, ← hs]
  have hword : u.controlWord .dmx = some (packBits [u.inError, u.atByte (u.par.subslot - 1), u.atByte 0, u.go,
      u.inp.dmxFirst]) := by simp only [State.controlWord, h, if_true]
  cases hg : u.go
  · -- HOLD
    have hw : u.controlWord .dmx = some (Instr.dmxHold u.inError (u.atByte (u.par.subslot - 1)) (u.atByte 0)
        u.inp.dmxFirst).encode := by rw [hword, hg]; rfl
    have hdec : ∀ e l k f : Bool, (e = true → l = false ∧ k = false) →
        decode .dmx (Instr.dmxHold e l k f).encode = .ok (.dmxHold e l k f) := by decide
    rw [runBlock_of_fetch hw (hdec _ _ _ _ (by
      simp only [State.inError, State.atByte]; cases u.regs.dstate <;> simp))]
    simp only [exec, execDmxHold, State.perform_of_selected (i := .dmxHold _ _ _ _) hw, State.dmxRow, hg, if_true]
    unfold State.write
    simp only [State.driveDmx_next]
    rw [← hkeep]
    rfl
  · cases hst : u.regs.dstate with
    | error =>
      have he : u.inError = true := by simp [State.inError, hst]
      have hk : ∀ k, u.atByte k = false := fun k => by simp [State.atByte, hst]
      have hw : u.controlWord .dmx = some (Instr.dmxResync false false u.inp.dmxFirst).encode := by
        rw [hword, hg, he, hk, hk]; rfl
      rw [runBlock_of_fetch hw (by cases u.inp.dmxFirst <;> rfl)]
      simp only [exec, execDmxResync, State.perform_of_selected (i := .dmxResync _ _ _) hw, State.dmxRow, hg, hst,
        Bool.true_eq_false, if_false]
      rfl
    | byte k =>
      have he : u.inError = false := by simp [State.inError, hst]
      have hk : ∀ j, u.atByte j = (k.val == j) := fun j => by simp [State.atByte, hst]
      have hreach : k.val < u.par.subslot := by simpa [Params.dstateReachable, hst] using h
      by_cases hk0 : k.val = 0
      · -- START
        have hw : u.controlWord .dmx =
            some (Instr.dmxStart (u.atByte (u.par.subslot - 1)) u.inp.dmxFirst).encode := by
          rw [hword, hg, he, hk 0, hk0]; rfl
        rw [runBlock_of_fetch hw (by cases u.atByte (u.par.subslot - 1) <;> cases u.inp.dmxFirst <;> rfl)]
        simp only [exec, execDmxStart, State.perform_of_selected (i := .dmxStart _ _) hw, State.dmxRow, hg, hst, hk0,
          Bool.true_eq_false, if_false, if_true]
        split
        · unfold State.write
          simp only [State.driveDmx_next]
          rw [← hs]
        · rfl
      · have hk0' : (k.val == 0) = false := by simpa using hk0
        cases hf : u.inp.dmxFirst
        · by_cases hl : k.val = u.par.subslot - 1
          · -- LAST
            have hw : u.controlWord .dmx = some Instr.dmxLast.encode := by
              rw [hword, hg, he, hk, hk, hk0', hf, ← hl, beq_self_eq_true]; rfl
            rw [runBlock_of_fetch hw rfl]
            simp only [exec, execDmxLast, State.perform_of_selected (i := .dmxLast) hw, State.dmxRow, hg, hst, hf,
              if_neg hk0, if_pos hl, Bool.true_eq_false, Bool.false_eq_true, if_false]
            unfold State.write
            simp only [State.driveDmx_next]
            rw [← hs, ← hc]
          · -- MID
            have hw : u.controlWord .dmx = some Instr.dmxMid.encode := by
              rw [hword, hg, he, hk, hk, hk0', hf, (by simpa using hl : (k.val == u.par.subslot - 1) = false)]; rfl
            rw [runBlock_of_fetch hw rfl]
            simp only [exec, execDmxMid, State.perform_of_selected (i := .dmxMid) hw, State.dmxRow, hg, hst, hf,
              if_neg hk0, if_neg hl, Bool.true_eq_false, Bool.false_eq_true, if_false]
            unfold State.write
            simp only [State.driveDmx_next]
            rw [← hc]
        · -- VIOLATE
          have hw : u.controlWord .dmx =
              some (Instr.dmxViolate (u.atByte (u.par.subslot - 1))).encode := by
            rw [hword, hg, he, hk 0, hk0', hf]; rfl
          rw [runBlock_of_fetch hw (by cases u.atByte (u.par.subslot - 1) <;> rfl)]
          simp only [exec, execDmxViolate, State.perform_of_selected (i := .dmxViolate _) hw, State.dmxRow, hg, hst, hf,
            if_neg hk0, Bool.true_eq_false, if_false, if_true]
          unfold State.raiseFramingViolation State.write
          simp only [State.driveDmx_next]
          rw [← hs, ← hc]

/-! ### The same, inside a tick: from a state of the tick to the next state of the tick -/

/-- A state inside the tick that begins at `s`: registers so far written `n`, ports so far driven `o`. -/
abbrev State.inTick (s : State) (n : Regs) (o : Outputs) : State := { s with next := n, out := o }

theorem State.beginTick_eq_inTick (s : State) : s.beginTick = s.inTick s.regs {} := rfl

theorem runBlock_sampleDivider_inTick (s : State) (n : Regs) (o : Outputs) :
    runBlock (.rdiv .sample) (s.inTick n o) =
      .next (s.inTick { n with cntSample := s.cntAfter .sample } { o with pulseSample := s.sampleTick }) :=
  runBlock_rdiv .sample (s.inTick n o)

theorem runBlock_pulseDivider_inTick (s : State) (n : Regs) (o : Outputs) :
    runBlock (.rdiv .pulse) (s.inTick n o) =
      .next (s.inTick { n with cntPulse := s.cntAfter .pulse } { o with pulseMod := s.stb }) :=
  runBlock_rdiv .pulse (s.inTick n o)

theorem runBlock_nco_inTick (s : State) (n : Regs) (o : Outputs) :
    runBlock .nco (s.inTick n o) =
      .next (s.inTick { n with phase := if s.inp.ncoReady then s.phaseAfter else n.phase }
        { o with ncoValid := true, ncoSample := ncoOutput s.par s.regs.phase }) :=
  runBlock_nco (s.inTick n o)

theorem runBlock_dmx_inTick (s : State) (n : Regs) (o : Outputs) (h : s.par.dstateReachable s.regs.dstate = true)
    (hd : n.dstate = s.regs.dstate) (hc : n.chan = s.regs.chan) (hs : n.sub = s.regs.sub) :
    runBlock .dmx (s.inTick n o) =
      .next (s.inTick { n with dstate := s.dmxRow.dstate, chan := s.dmxRow.chan, sub := s.dmxRow.sub }
        (s.inTick n o |>.driveDmx s.dmxRow.inReady s.dmxRow.emit s.dmxRow.violation).out) :=
  runBlock_dmx (s.inTick n o) h hd hc hs

theorem runBlock_mux_inTick (s : State) (n : Regs) (o : Outputs) (h : s.par.hasMux = true)
    (ho : s.par.offReachable s.regs.off = true) :
    runBlock .mux (s.inTick n o) =
      .next (s.inTick
        { n with
          off := if s.inp.muxReady then (if s.atLastOffset then 0 else s.regs.off + 1) else n.off
          sel := if s.inp.muxReady && s.atLastOffset then !s.regs.sel else n.sel }
        ((s.inTick n o).driveMux (s.inp.muxReady && s.atLastOffset)).out) :=
  runBlock_mux (s.inTick n o) h ho

theorem runBlock_dsm_inTick (s : State) (n : Regs) (o : Outputs) (h : s.par.hasDac = true) :
    runBlock .dsm (s.inTick n o) =
      .next (s.inTick
        { n with acc := if s.stb then s.modulated else n.acc, r := if s.update then s.latched else n.r }
        { o with dacOut := s.perChannel fun c => pinOf s.par (s.accOf c) }) :=
  runBlock_dsm (s.inTick n o) h

theorem runBlock_seq_inTick (s : State) (n : Regs) (o : Outputs) (h : s.par.hasDac = true) :
    runBlock .seq (s.inTick n o) =
      .next (s.inTick
        (match s.regs.seq with
        | .wait => { n with seq := if s.sampleTick then .channelRead else n.seq }
        | .channelRead =>
          { n with
            h := s.perChannel fun c => if (s.qOf c).isEmpty then s.hOf c else (s.qOf c).payload
            q := s.perChannel fun c => (s.qOf c).pop
            seq := .latch }
        | .latch => { n with seq := .wait })
        { o with update := s.update, qReady := s.perChannel fun c => !(s.qOf c).isFull }) :=
  runBlock_seq (s.inTick n o) h

theorem runBlock_vui_inTick (s : State) (n : Regs) (o : Outputs) :
    runBlock .vui (s.inTick n o) =
      .next (s.inTick { n with vq := if s.inp.vuValid && !s.regs.vq.isFull then n.vq.append s.vuSample else n.vq }
        { o with vuInReady := !s.regs.vq.isFull }) :=
  runBlock_vui (s.inTick n o)

theorem runBlock_vuo_inTick (s : State) (n : Regs) (o : Outputs) :
    runBlock .vuo (s.inTick n o) =
      .next (s.inTick
        { n with
          vq := if s.sampleTick && !s.regs.vq.isEmpty then n.vq.pop else n.vq
          mag := if s.sampleTick && !s.regs.vq.isEmpty then rectify s.par s.regs.vq.payload else n.mag }
        { o with lit := litOf s.par.th s.regs.mag, level := levelOf s.par.th s.regs.mag }) :=
  runBlock_vuo (s.inTick n o)

theorem runBlock_fb_inTick (s : State) (n : Regs) (o : Outputs) :
    runBlock .fb (s.inTick n o) =
      .next (s.inTick n { o with fbByte := feedbackByte s.par.fb s.inp.fbIndex }) :=
  runBlock_fb (s.inTick n o)

/-- A block that answers lets the rest of the tick go on. -/
theorem runBlocks_cons_of_next {b : Block} {bs : List Block} {s t : State} (h : runBlock b s = .next t) :
    runBlocks (b :: bs) s = runBlocks bs t := by
  simp only [runBlocks, h]

end Sys2Proof.Machine
end

