-- ==== Sys2Proof/Laws/PerInstr.lean ====
section
/-! SUPPORT. Laws/PerInstr: one lemma per operation of each family of LAWS.json. -/

namespace Sys2Proof.Laws

/-- The encoding of an operation fits the operation's own row of the opcode table (`cw AND mask = match`, R100), and
sets no bit above its format's width. -/
def MatchesItsRow.Statement (i : Instr) : Prop :=
  i.matchesRow i.encode = true ∧ i.encode.toNat < 2 ^ i.block.width

theorem MatchesItsRow.rdivReload (d : Divider) : MatchesItsRow.Statement (.rdivReload d) := by
  unfold MatchesItsRow.Statement
  cases d <;> decide

theorem MatchesItsRow.rdivCount (d : Divider) : MatchesItsRow.Statement (.rdivCount d) := by
  unfold MatchesItsRow.Statement
  cases d <;> decide

theorem MatchesItsRow.ncoAdvance : MatchesItsRow.Statement .ncoAdvance := ⟨rfl, by decide⟩

theorem MatchesItsRow.ncoHold : MatchesItsRow.Statement .ncoHold := ⟨rfl, by decide⟩

theorem MatchesItsRow.dmxHold (e l k f : Bool) : MatchesItsRow.Statement (.dmxHold e l k f) := by
  unfold MatchesItsRow.Statement
  revert e l k f; decide

theorem MatchesItsRow.dmxStart (l f : Bool) : MatchesItsRow.Statement (.dmxStart l f) := by
  unfold MatchesItsRow.Statement
  revert l f; decide

theorem MatchesItsRow.dmxMid : MatchesItsRow.Statement .dmxMid := ⟨rfl, by decide⟩

theorem MatchesItsRow.dmxLast : MatchesItsRow.Statement .dmxLast := ⟨rfl, by decide⟩

theorem MatchesItsRow.dmxViolate (l : Bool) : MatchesItsRow.Statement (.dmxViolate l) := by
  unfold MatchesItsRow.Statement
  revert l; decide

theorem MatchesItsRow.dmxResync (l k f : Bool) : MatchesItsRow.Statement (.dmxResync l k f) := by
  unfold MatchesItsRow.Statement
  revert l k f; decide

theorem MatchesItsRow.muxHold (l : Bool) : MatchesItsRow.Statement (.muxHold l) := by
  unfold MatchesItsRow.Statement
  revert l; decide

theorem MatchesItsRow.muxByte : MatchesItsRow.Statement .muxByte := ⟨rfl, by decide⟩

theorem MatchesItsRow.muxWrap : MatchesItsRow.Statement .muxWrap := ⟨rfl, by decide⟩

theorem MatchesItsRow.dsmHold : MatchesItsRow.Statement .dsmHold := ⟨rfl, by decide⟩

theorem MatchesItsRow.dsmMod : MatchesItsRow.Statement .dsmMod := ⟨rfl, by decide⟩

theorem MatchesItsRow.dsmUpdate : MatchesItsRow.Statement .dsmUpdate := ⟨rfl, by decide⟩

theorem MatchesItsRow.dsmModupd : MatchesItsRow.Statement .dsmModupd := ⟨rfl, by decide⟩

theorem MatchesItsRow.seqWait : MatchesItsRow.Statement .seqWait := ⟨rfl, by decide⟩

theorem MatchesItsRow.seqFire : MatchesItsRow.Statement .seqFire := ⟨rfl, by decide⟩

theorem MatchesItsRow.seqRead (t : Bool) : MatchesItsRow.Statement (.seqRead t) := by
  unfold MatchesItsRow.Statement
  revert t; decide

theorem MatchesItsRow.seqLatch (t : Bool) : MatchesItsRow.Statement (.seqLatch t) := by
  unfold MatchesItsRow.Statement
  revert t; decide

theorem MatchesItsRow.vuPush : MatchesItsRow.Statement .vuPush := ⟨rfl, by decide⟩

theorem MatchesItsRow.vuReject : MatchesItsRow.Statement .vuReject := ⟨rfl, by decide⟩

theorem MatchesItsRow.vuNopush (n : Bool) : MatchesItsRow.Statement (.vuNopush n) := by
  unfold MatchesItsRow.Statement
  revert n; decide

theorem MatchesItsRow.vuPop : MatchesItsRow.Statement .vuPop := ⟨rfl, by decide⟩

theorem MatchesItsRow.vuStarve : MatchesItsRow.Statement .vuStarve := ⟨rfl, by decide⟩

theorem MatchesItsRow.vuKeep (m : Bool) : MatchesItsRow.Statement (.vuKeep m) := by
  unfold MatchesItsRow.Statement
  revert m; decide

theorem MatchesItsRow.fbRead (i : BitVec 2) : MatchesItsRow.Statement (.fbRead i) := by
  unfold MatchesItsRow.Statement
  revert i; decide

end Sys2Proof.Laws
end

