-- ==== Sys2Proof/Laws/Setup.lean ====
section
/-! SUPPORT. Laws/Setup: the exact comparison behind CFG.TABLE is the real cosine comparison, and the search answers the
largest number that satisfies its condition (R141, R258). -/

namespace Sys2Proof.Machine

/-- The codes of R316 tell the errors apart. -/
theorem ErrorName.code_injective : ∀ {e f : ErrorName}, e.code = f.code → e = f := by
  intro e f
  cases e <;> cases f <;> decide

/-- What the ACC_INIT check finds: nothing exactly when every value is in range (R304). -/
theorem firstBadAcc_eq_none_iff {b : Nat} : ∀ {c : Nat} {accs : List Nat},
    firstBadAcc b c accs = none ↔ ∀ a ∈ accs, a < 2 ^ (b + 1)
  | _, [] => by simp [firstBadAcc]
  | c, a :: rest => by
    by_cases h : a < 2 ^ (b + 1) <;> simp [firstBadAcc, h, firstBadAcc_eq_none_iff (c := c + 1) (accs := rest)]

/-- The phase angle of point `i` of `2^k`. -/
noncomputable def turn (k i : Nat) : ℝ := 2 * Real.pi * i / 2 ^ k

theorem cos_turn_mod (k i : Nat) : Real.cos (turn k (i % 2 ^ k)) = Real.cos (turn k i) := by
  have hdiv := Nat.div_add_mod i (2 ^ k)
  have h : turn k i = turn k (i % 2 ^ k) + ((i / 2 ^ k : Nat) : ℝ) * (2 * Real.pi) := by
    unfold turn
    conv_lhs => rw [← hdiv]
    push_cast
    field_simp
    ring
  rw [h, Real.cos_add_nat_mul_two_pi]

theorem turn_succ (k j : Nat) : turn k j = 2 * turn (k + 1) j := by
  unfold turn; rw [pow_succ]; field_simp

/-- The three-way answer of a comparison, as a proposition about reals. -/
def ComparesTo (o : Ordering) (x y : ℝ) : Prop :=
  match o with
  | .lt => x < y
  | .eq => x = y
  | .gt => y < x

theorem comparesTo_compare_int (p q : Int) : ComparesTo (compare p q) (p : ℝ) (q : ℝ) := by
  rcases lt_trichotomy p q with h | h | h
  · rw [Int.compare_eq_lt.2 h]; exact Int.cast_lt.2 h
  · subst h; rw [Int.compare_eq_eq.2 rfl]; exact rfl
  · rw [Int.compare_eq_gt.2 h]; exact Int.cast_lt.2 h

theorem comparesTo_swap {o : Ordering} {x y : ℝ} (h : ComparesTo o x y) : ComparesTo o.swap y x := by
  cases o <;> simpa [ComparesTo, Ordering.swap, eq_comm] using h

/-- Squaring keeps the order of two positive numbers. -/
theorem comparesTo_of_sq {o : Ordering} {x y : ℝ} (hx : 0 < x) (hy : 0 < y)
    (h : ComparesTo o (2 * x ^ 2) (2 * y ^ 2)) : ComparesTo o x y := by
  cases o <;> simp only [ComparesTo] at *
  · nlinarith
  · nlinarith [sq_nonneg (x - y), sq_nonneg (x + y), mul_self_eq_mul_self_iff.1 (by nlinarith : x * x = y * y)]
  · nlinarith

theorem comparesTo_sub {o : Ordering} {x y : ℝ} (c : ℝ) (h : ComparesTo o (x - c) (y - c)) : ComparesTo o x y := by
  cases o <;> simp only [ComparesTo] at * <;> linarith

theorem comparesTo_neg {o : Ordering} {x y : ℝ} (h : ComparesTo o (-x) (-y)) : ComparesTo o.swap x y := by
  cases o <;> simp only [ComparesTo, Ordering.swap] at * <;> linarith

/-- `cosCompare` compares `p/q` with the cosine of phase point `i` of `2^k`, exactly. -/
theorem cosCompare_spec : ∀ (k i : Nat) (p : Int) (q : Nat), 0 < q →
    ComparesTo (cosCompare k i p q) (p : ℝ) (q * Real.cos (turn k i))
  | 0, i, p, q, _ => by
    have h : Real.cos (turn 0 i) = 1 := by
      rw [← cos_turn_mod]; simp [turn, Nat.mod_one]
    rw [h, mul_one]
    simpa [cosCompare] using comparesTo_compare_int p q
  | 1, i, p, q, _ => by
    rw [← cos_turn_mod]
    rcases Nat.mod_two_eq_zero_or_one i with h | h
    · have h' : i % 2 ^ 1 = 0 := by simpa using h
      simp only [cosCompare, h, h', if_true]
      simpa [turn] using comparesTo_compare_int p q
    · have h' : i % 2 ^ 1 = 1 := by simpa using h
      have hc : Real.cos (turn 1 1) = -1 := by
        have : turn 1 1 = Real.pi := by unfold turn; push_cast; ring
        rw [this, Real.cos_pi]
      simp only [cosCompare, h, h', hc]
      simpa using comparesTo_compare_int p (-(q : Int))
  | k + 2, i, p, q, hq => by
    rw [← cos_turn_mod]
    set j := i % 2 ^ (k + 2) with hj
    have hjlt : j < 4 * 2 ^ k := by
      have h4 : 2 ^ (k + 2) = 4 * 2 ^ k := by ring
      exact h4 ▸ Nat.mod_lt i (Nat.two_pow_pos (k + 2))
    have hQ : (0 : ℝ) < 2 ^ k := by positivity
    have hq' : (0 : ℝ) < q := by exact_mod_cast hq
    have hπ := Real.pi_pos
    have hturn : turn (k + 2) j = Real.pi / 2 * (j / 2 ^ k) := by
      unfold turn; rw [pow_add]; ring
    have ih := cosCompare_spec (k + 1) j (2 * p * p - (q : Int) * q) (q * q) (Nat.mul_pos hq hq)
    rw [turn_succ (k + 1) j, Real.cos_two_mul] at ih
    set c := Real.cos (turn (k + 2) j) with hc
    have ih' : ComparesTo (cosCompare (k + 1) j (2 * p * p - (q : Int) * q) (q * q))
        (2 * (p : ℝ) ^ 2) (2 * (q * c) ^ 2) := by
      apply comparesTo_sub ((q : ℝ) * q)
      convert ih using 1
      · push_cast; ring
      · push_cast; ring
    simp only [cosCompare, ← hj]
    split
    · rename_i h
      have hc0 : c = 0 := by
        rcases h with h | h
        · have : turn (k + 2) j = Real.pi / 2 := by rw [hturn, h]; push_cast; field_simp
          rw [hc, this, Real.cos_pi_div_two]
        · have : turn (k + 2) j = Real.pi / 2 + Real.pi := by rw [hturn, h]; push_cast; field_simp; ring
          rw [hc, this, Real.cos_add_pi, Real.cos_pi_div_two, neg_zero]
      simpa [hc0] using comparesTo_compare_int p 0
    · rename_i h
      push Not at h
      split
      · rename_i hreg
        have hcpos : 0 < c := by
          rw [hc, hturn]
          rcases hreg with hlt | hgt
          · apply Real.cos_pos_of_mem_Ioo
            have h1 : (j : ℝ) / 2 ^ k < 1 := by
              rw [div_lt_one hQ]; exact_mod_cast hlt
            have h0 : (0 : ℝ) ≤ (j : ℝ) / 2 ^ k := by positivity
            constructor <;> nlinarith
          · rw [← Real.cos_sub_two_pi]
            apply Real.cos_pos_of_mem_Ioo
            have h1 : (3 : ℝ) < (j : ℝ) / 2 ^ k := by
              rw [lt_div_iff₀ hQ]; exact_mod_cast hgt
            have h0 : (j : ℝ) / 2 ^ k < 4 := by
              rw [div_lt_iff₀ hQ]; exact_mod_cast hjlt
            constructor <;> nlinarith
        split
        · rename_i hp
          have : (p : ℝ) ≤ 0 := by exact_mod_cast hp
          have : 0 < q * c := by positivity
          simp only [ComparesTo]; linarith
        · rename_i hp
          exact comparesTo_of_sq (by exact_mod_cast (not_le.1 hp)) (by positivity) ih'
      · rename_i hreg
        push Not at hreg
        have hcneg : c < 0 := by
          rw [hc, hturn]
          have h1 : (1 : ℝ) < (j : ℝ) / 2 ^ k := by
            rw [lt_div_iff₀ hQ, one_mul]; exact_mod_cast lt_of_le_of_ne hreg.1 (Ne.symm h.1)
          have h0 : (j : ℝ) / 2 ^ k < 3 := by
            rw [div_lt_iff₀ hQ]; exact_mod_cast lt_of_le_of_ne hreg.2 h.2
          apply Real.cos_neg_of_pi_div_two_lt_of_lt <;> nlinarith
        have hqc : q * c < 0 := mul_neg_of_pos_of_neg hq' hcneg
        split
        · rename_i hp
          have : (0 : ℝ) ≤ p := by exact_mod_cast hp
          simp only [ComparesTo]; linarith
        · rename_i hp
          have hpneg : (p : ℝ) < 0 := by exact_mod_cast (not_le.1 hp)
          apply comparesTo_neg
          apply comparesTo_of_sq (by linarith) (by linarith)
          simpa using ih'

theorem cosAtLeast_iff {k i : Nat} {p : Int} {q : Nat} (hq : 0 < q) :
    cosAtLeast k i p q = true ↔ (p : ℝ) ≤ q * Real.cos (turn k i) := by
  have h := cosCompare_spec k i p q hq
  unfold cosAtLeast
  cases ho : cosCompare k i p q <;> rw [ho] at h <;> simp only [ComparesTo] at h <;> simp <;> linarith

/-- The search answers the largest number of its range that satisfies a downward closed condition. -/
theorem searchLargest_spec (ok : Nat → Bool) (hmono : ∀ x y, x ≤ y → ok y = true → ok x = true) :
    ∀ n a, ok a = true →
      a ≤ searchLargest ok n a ∧ searchLargest ok n a < a + 2 ^ n ∧ ok (searchLargest ok n a) = true ∧
        ∀ x, searchLargest ok n a < x → x < a + 2 ^ n → ok x = false
  | 0, a, ha => by simp only [searchLargest, pow_zero]; exact ⟨le_rfl, by omega, ha, by omega⟩
  | n + 1, a, ha => by
    simp only [searchLargest]
    have hp : 2 ^ (n + 1) = 2 ^ n + 2 ^ n := by ring
    split
    · rename_i h
      obtain ⟨h1, h2, h3, h4⟩ := searchLargest_spec ok hmono n (a + 2 ^ n) h
      exact ⟨by omega, by omega, h3, fun x hx hx' => h4 x hx (by omega)⟩
    · rename_i h
      obtain ⟨h1, h2, h3, h4⟩ := searchLargest_spec ok hmono n a ha
      refine ⟨h1, by omega, h3, fun x hx hx' => ?_⟩
      by_cases hlt : x < a + 2 ^ n
      · exact h4 x hx hlt
      · by_contra hc
        exact h (hmono _ x (not_lt.1 hlt) (by simpa using hc))

/-- The search, started at 0: membership below the answer is the condition. -/
theorem le_searchLargest_iff (ok : Nat → Bool) (hmono : ∀ x y, x ≤ y → ok y = true → ok x = true) (n : Nat)
    (h0 : ok 0 = true) (x : Nat) (hx : x < 2 ^ n) : x ≤ searchLargest ok n 0 ↔ ok x = true := by
  obtain ⟨-, -, h3, h4⟩ := searchLargest_spec ok hmono n 0 h0
  constructor
  · exact fun h => hmono _ _ h h3
  · intro h
    by_contra hc
    rw [h4 x (not_le.1 hc) (by omega)] at h
    cases h

theorem searchLargest_lt (ok : Nat → Bool) (hmono : ∀ x y, x ≤ y → ok y = true → ok x = true) (n : Nat)
    (h0 : ok 0 = true) : searchLargest ok n 0 < 2 ^ n := by
  have := (searchLargest_spec ok hmono n 0 h0).2.1
  omega

end Sys2Proof.Machine
end

