-- ==== Sys2Proof/Laws/Tick.lean ====
section
/-! SUPPORT. Laws/Tick: each block's operation inside a tick, on registers and ports written out field by field, with the
new values of Machine/RegisterView.lean. Read in the blocks' order they give a whole tick. -/

namespace Sys2Proof.Machine

variable (s : State)
  (n1 n2 : Nat) (n3 : Pattern) (n4 : DState) (n5 : Nat) (n6 : List Byte) (n7 : Bool) (n8 : BitVec 2)
  (n9 n10 : List Pattern) (n11 : SeqState) (n12 : List Pattern) (n13 : List Fifo) (n14 : Fifo) (n15 : Pattern)
  (o1 o2 o3 : Bool) (o4 : Nat) (o5 o6 : Bool) (o7 : List Bool) (o8 : Nat) (o9 : List Bool) (o10 o11 : Bool)
  (o12 : Byte) (o13 o14 o15 o16 : List Bool) (o17 o18 : Bool) (o19 o20 : Nat) (o21 : Byte)

/-- RDIV of the sample rate. -/
theorem tick_sampleDivider :
    runBlock (.rdiv .sample) (s.inTick ⟨n1, n2, n3, n4, n5, n6, n7, n8, n9, n10, n11, n12, n13, n14, n15⟩ ⟨o1, o2, o3,
    o4, o5, o6, o7, o8, o9, o10, o11, o12, o13, o14, o15, o16, o17, o18, o19, o20, o21⟩) =
      .next (s.inTick ⟨(s.cntAfter .sample), n2, n3, n4, n5, n6, n7, n8, n9, n10, n11, n12, n13, n14, n15⟩
      ⟨s.sampleTick, o2, o3, o4, o5, o6, o7, o8, o9, o10, o11, o12, o13, o14, o15, o16, o17, o18, o19, o20, o21⟩) :=
      by
  rw [runBlock_sampleDivider_inTick]

/-- RDIV of the pulse rate. -/
theorem tick_pulseDivider :
    runBlock (.rdiv .pulse) (s.inTick ⟨n1, n2, n3, n4, n5, n6, n7, n8, n9, n10, n11, n12, n13, n14, n15⟩ ⟨o1, o2, o3,
    o4, o5, o6, o7, o8, o9, o10, o11, o12, o13, o14, o15, o16, o17, o18, o19, o20, o21⟩) =
      .next (s.inTick ⟨n1, (s.cntAfter .pulse), n3, n4, n5, n6, n7, n8, n9, n10, n11, n12, n13, n14, n15⟩ ⟨o1, s.stb,
      o3, o4, o5, o6, o7, o8, o9, o10, o11, o12, o13, o14, o15, o16, o17, o18, o19, o20, o21⟩) := by
  rw [runBlock_pulseDivider_inTick]

/-- NCO. -/
theorem tick_nco (keep : n3 = s.regs.phase) :
    runBlock .nco (s.inTick ⟨n1, n2, n3, n4, n5, n6, n7, n8, n9, n10, n11, n12, n13, n14, n15⟩ ⟨o1, o2, o3, o4, o5,
    o6, o7, o8, o9, o10, o11, o12, o13, o14, o15, o16, o17, o18, o19, o20, o21⟩) =
      .next (s.inTick ⟨n1, n2, s.phaseAfter, n4, n5, n6, n7, n8, n9, n10, n11, n12, n13, n14, n15⟩ ⟨o1, o2, true,
      (ncoOutput s.par s.regs.phase), o5, o6, o7, o8, o9, o10, o11, o12, o13, o14, o15, o16, o17, o18, o19, o20, o21⟩)
      := by
  rw [runBlock_nco_inTick]
  subst keep
  by_cases h : s.inp.ncoReady <;> simp [State.phaseAfter, h]

/-- DMX. -/
theorem tick_dmx (h : s.par.dstateReachable s.regs.dstate = true) (keep1 : n4 = s.regs.dstate)
    (keep2 : n5 = s.regs.chan) (keep3 : n6 = s.regs.sub) :
    runBlock .dmx (s.inTick ⟨n1, n2, n3, n4, n5, n6, n7, n8, n9, n10, n11, n12, n13, n14, n15⟩ ⟨o1, o2, o3, o4, o5,
    o6, o7, o8, o9, o10, o11, o12, o13, o14, o15, o16, o17, o18, o19, o20, o21⟩) =
      .next (s.inTick ⟨n1, n2, n3, s.dmxRow.dstate, s.dmxRow.chan, s.dmxRow.sub, n7, n8, n9, n10, n11, n12, n13, n14,
      n15⟩ ⟨o1, o2, o3, o4, s.dmxRow.inReady, (s.inp.dmxValid && s.dmxRow.inReady), (s.perChannel fun c =>
      s.dmxRow.emit.any fun e => e.1 == c), ((s.dmxRow.emit.map fun e => e.2).getD 0), (s.perChannel fun c =>
      (s.dmxRow.emit.any fun e => e.1 == c) && s.dmxReady c), s.dmxRow.violation, o11, o12, o13, o14, o15, o16, o17,
      o18, o19, o20, o21⟩) := by
  rw [runBlock_dmx_inTick _ _ _ h keep1 keep2 keep3]
  unfold State.driveDmx
  simp only [State.inTick]
  congr 3
  apply List.map_congr_left
  intro c hc
  congr 1
  simp only [List.mem_range] at hc
  exact State.perChannel_getD s _ _ hc

/-- MUX. -/
theorem tick_mux (h : s.par.hasMux = true) (ho : s.par.offReachable s.regs.off = true) (keep1 : n8 = s.regs.off)
    (keep2 : n7 = s.regs.sel) :
    runBlock .mux (s.inTick ⟨n1, n2, n3, n4, n5, n6, n7, n8, n9, n10, n11, n12, n13, n14, n15⟩ ⟨o1, o2, o3, o4, o5,
    o6, o7, o8, o9, o10, o11, o12, o13, o14, o15, o16, o17, o18, o19, o20, o21⟩) =
      .next (s.inTick ⟨n1, n2, n3, n4, n5, n6, s.selAfter, s.offAfter, n9, n10, n11, n12, n13, n14, n15⟩ ⟨o1, o2, o3,
      o4, o5, o6, o7, o8, o9, o10, true, (byteAt s.muxBuffer s.regs.off.toNat), [s.muxWraps && !s.regs.sel, s.muxWraps
      && s.regs.sel], [s.muxWraps && !s.regs.sel && s.muxValid 0, s.muxWraps && s.regs.sel && s.muxValid 1], o15, o16,
      o17, o18, o19, o20, o21⟩) := by
  rw [runBlock_mux_inTick _ _ _ h ho]
  subst keep1 keep2
  simp only [State.offAfter, State.selAfter, State.muxWraps, h, Bool.true_and]
  cases s.inp.muxReady <;> cases s.atLastOffset <;> cases hs : s.regs.sel <;> simp [State.driveMux, hs] <;>
    first | rfl | exact ⟨rfl, rfl⟩

/-- DSM. -/
theorem tick_dsm (h : s.par.hasDac = true) (keep1 : n9 = s.regs.acc) (keep2 : n10 = s.regs.r) :
    runBlock .dsm (s.inTick ⟨n1, n2, n3, n4, n5, n6, n7, n8, n9, n10, n11, n12, n13, n14, n15⟩ ⟨o1, o2, o3, o4, o5,
    o6, o7, o8, o9, o10, o11, o12, o13, o14, o15, o16, o17, o18, o19, o20, o21⟩) =
      .next (s.inTick ⟨n1, n2, n3, n4, n5, n6, n7, n8, s.accAfter, s.rAfter, n11, n12, n13, n14, n15⟩ ⟨o1, o2, o3, o4,
      o5, o6, o7, o8, o9, o10, o11, o12, o13, o14, (s.perChannel fun c => pinOf s.par (s.accOf c)), o16, o17, o18,
      o19, o20, o21⟩) := by
  rw [runBlock_dsm_inTick _ _ _ h]
  subst keep1 keep2
  simp only [State.accAfter, State.rAfter, h, Bool.true_and]
  rfl

/-- SEQ: the reading side of the queues. -/
theorem tick_seq (h : s.par.hasDac = true) (keep1 : n11 = s.regs.seq) (keep2 : n12 = s.regs.h)
    (keep3 : n13 = s.regs.q) :
    runBlock .seq (s.inTick ⟨n1, n2, n3, n4, n5, n6, n7, n8, n9, n10, n11, n12, n13, n14, n15⟩ ⟨o1, o2, o3, o4, o5,
    o6, o7, o8, o9, o10, o11, o12, o13, o14, o15, o16, o17, o18, o19, o20, o21⟩) =
      .next (s.inTick ⟨n1, n2, n3, n4, n5, n6, n7, n8, n9, n10, s.seqAfter, s.hAfter, (if s.reading then s.perChannel
      fun c => (s.qOf c).pop else s.regs.q), n14, n15⟩ ⟨o1, o2, o3, o4, o5, o6, o7, o8, o9, o10, o11, o12, o13, o14,
      o15, (s.perChannel fun c => !(s.qOf c).isFull), s.update, o18, o19, o20, o21⟩) := by
  rw [runBlock_seq_inTick _ _ _ h]
  subst keep1 keep2 keep3
  simp only [State.seqAfter, State.hAfter, State.reading, h, Bool.true_and]
  cases s.regs.seq <;> simp [State.inTick]
  congr 1
  funext c
  rcases s.qOf c with ⟨items, last⟩
  cases items <;> simp [Fifo.isEmpty, Fifo.payload]

/-- VU, the input side. -/
theorem tick_vui :
    runBlock .vui (s.inTick ⟨n1, n2, n3, n4, n5, n6, n7, n8, n9, n10, n11, n12, n13, n14, n15⟩ ⟨o1, o2, o3, o4, o5,
    o6, o7, o8, o9, o10, o11, o12, o13, o14, o15, o16, o17, o18, o19, o20, o21⟩) =
      .next (s.inTick ⟨n1, n2, n3, n4, n5, n6, n7, n8, n9, n10, n11, n12, n13, (if s.inp.vuValid && !s.regs.vq.isFull
      then n14.append s.vuSample else n14), n15⟩ ⟨o1, o2, o3, o4, o5, o6, o7, o8, o9, o10, o11, o12, o13, o14, o15,
      o16, o17, (!s.regs.vq.isFull), o19, o20, o21⟩) := by
  rw [runBlock_vui_inTick]

/-- VU, the output side. -/
theorem tick_vuo (keep : n15 = s.regs.mag) :
    runBlock .vuo (s.inTick ⟨n1, n2, n3, n4, n5, n6, n7, n8, n9, n10, n11, n12, n13, n14, n15⟩ ⟨o1, o2, o3, o4, o5,
    o6, o7, o8, o9, o10, o11, o12, o13, o14, o15, o16, o17, o18, o19, o20, o21⟩) =
      .next (s.inTick ⟨n1, n2, n3, n4, n5, n6, n7, n8, n9, n10, n11, n12, n13, (if s.sampleTick && !s.regs.vq.isEmpty
      then n14.pop else n14), s.magAfter⟩ ⟨o1, o2, o3, o4, o5, o6, o7, o8, o9, o10, o11, o12, o13, o14, o15, o16, o17,
      o18, (litOf s.par.th s.regs.mag), (levelOf s.par.th s.regs.mag), o21⟩) := by
  rw [runBlock_vuo_inTick]
  subst keep
  simp only [State.magAfter]
  cases s.sampleTick <;> cases hv : s.regs.vq.items <;> simp [State.inTick, Fifo.isEmpty, Fifo.payload, hv]

/-- FB. -/
theorem tick_fb :
    runBlock .fb (s.inTick ⟨n1, n2, n3, n4, n5, n6, n7, n8, n9, n10, n11, n12, n13, n14, n15⟩ ⟨o1, o2, o3, o4, o5, o6,
    o7, o8, o9, o10, o11, o12, o13, o14, o15, o16, o17, o18, o19, o20, o21⟩) =
      .next (s.inTick ⟨n1, n2, n3, n4, n5, n6, n7, n8, n9, n10, n11, n12, n13, n14, n15⟩ ⟨o1, o2, o3, o4, o5, o6, o7,
      o8, o9, o10, o11, o12, o13, o14, o15, o16, o17, o18, o19, o20, (feedbackByte s.par.fb s.inp.fbIndex)⟩) := by
  rw [runBlock_fb_inTick]

end Sys2Proof.Machine
end

