-- ==== Sys2Proof/Tests/Slice0.lean ====
section
/-! SUPPORT. Tests: decoding of words written out from the encoding columns, refusals, one-tick checks whose values are
those of 95_test_vectors.md and of the rules' own examples, and a witness for the hypotheses of every statement. -/

namespace Sys2Proof.Tests

open Sys2Proof.Machine

-- one theorem at a time: a kernel evaluation in each of many waiting threads exhausts their stacks
set_option Elab.async false

/-! ### Small machines -/

/-- The state of an outcome, if it has one. -/
def result (o : Host.Outcome State Fault Refusal) : Option State :=
  match o with
  | .next t => some t
  | .fault _ => none
  | .refused _ => none

theorem of_result {o : Host.Outcome State Fault Refusal} (h : (result o).isSome = true) : ∃ t, o = .next t := by
  cases o with
  | next t => exact ⟨t, rfl⟩
  | fault r => exact Bool.noConfusion h
  | refused r => exact Bool.noConfusion h

/-- Two channels, five phase bits, the first table of V-NCO-1, the thresholds of G = 4, b = 8, the FB of 44100 Hz. -/
def par (d : BitDepth) (signed : Bool) : Params where
  depth := d
  signed := signed
  channels := 2
  phiBits := 5
  indexBits := 3
  segments := 4
  hasMux := true
  hasDac := true
  cyclesSample := 4
  cyclesPulse := 2
  table := [0x7F, 0x59, 0x00, 0xA7, 0x81, 0xA7, 0x00, 0x59]
  th := [31, 44, 63, 89]
  fb := 0x000B0666

/-- Such a machine's registers, no pulse on the first tick. -/
def regs (d : BitDepth) : Regs where
  cntSample := 1
  cntPulse := 1
  phase := 0
  dstate := .byte 0
  chan := 0
  sub := List.replicate (d.subslot - 1) 0
  sel := false
  off := 0
  acc := [0, 0]
  r := [0, 0]
  seq := .wait
  h := [0, 0]
  q := [Fifo.reset, Fifo.reset]
  vq := Fifo.reset
  mag := 0

/-- A machine with some registers changed and a stimulus. -/
def machine (d : BitDepth) (signed : Bool) (f : Regs → Regs) (xs : List Inputs) : State :=
  { State.initial (par d signed) (f (regs d)) with stimulus := xs }

/-- A byte for the demultiplexer, every consumer ready. -/
def beat (x : Byte) (first : Bool) : Inputs :=
  { dmxByte := x, dmxFirst := first, dmxValid := true, dmxReady := [true, true] }

/-- All inputs 0. -/
def quiet : Inputs := {}

/-! ### Decoding (30_encoding.md R101 to R108): the words written out bit by bit -/

theorem test_decode_rdiv : decode (.rdiv .sample) 0b00001 = .ok (.rdivReload .sample) ∧
    decode (.rdiv .sample) 0b00000 = .ok (.rdivCount .sample) := by decide
theorem test_decode_nco : decode .nco 0b00001 = .ok .ncoAdvance ∧ decode .nco 0b00000 = .ok .ncoHold := by decide
theorem test_decode_dmx_hold : decode .dmx 0b10001 = .ok (.dmxHold true false false true) ∧
    decode .dmx 0b01100 = .ok (.dmxHold false true true false) := by decide
theorem test_decode_dmx_start : decode .dmx 0b00111 = .ok (.dmxStart false true) ∧
    decode .dmx 0b01110 = .ok (.dmxStart true false) := by decide
theorem test_decode_dmx_mid_last : decode .dmx 0b00010 = .ok .dmxMid ∧ decode .dmx 0b01010 = .ok .dmxLast := by decide
theorem test_decode_dmx_violate : decode .dmx 0b00011 = .ok (.dmxViolate false) ∧
    decode .dmx 0b01011 = .ok (.dmxViolate true) := by decide
theorem test_decode_dmx_resync : decode .dmx 0b10011 = .ok (.dmxResync false false true) ∧
    decode .dmx 0b10010 = .ok (.dmxResync false false false) := by decide
theorem test_decode_mux : decode .mux 0b00000 = .ok (.muxHold false) ∧ decode .mux 0b00001 = .ok (.muxHold true) ∧
    decode .mux 0b00010 = .ok .muxByte ∧ decode .mux 0b00011 = .ok .muxWrap := by decide
theorem test_decode_dsm : decode .dsm 0b00000 = .ok .dsmHold ∧ decode .dsm 0b00001 = .ok .dsmMod ∧
    decode .dsm 0b00010 = .ok .dsmUpdate ∧ decode .dsm 0b00011 = .ok .dsmModupd := by decide
theorem test_decode_seq : decode .seq 0b00000 = .ok .seqWait ∧ decode .seq 0b00001 = .ok .seqFire ∧
    decode .seq 0b00011 = .ok (.seqRead true) ∧ decode .seq 0b00100 = .ok (.seqLatch false) := by decide
theorem test_decode_vui : decode .vui 0b00010 = .ok .vuPush ∧ decode .vui 0b00011 = .ok .vuReject ∧
    decode .vui 0b00001 = .ok (.vuNopush true) := by decide
theorem test_decode_vuo : decode .vuo 0b00010 = .ok .vuPop ∧ decode .vuo 0b00011 = .ok .vuStarve ∧
    decode .vuo 0b00000 = .ok (.vuKeep false) := by decide
theorem test_decode_fb : decode .fb 0b00000 = .ok (.fbRead 0) ∧ decode .fb 0b00011 = .ok (.fbRead 3) := by decide

/-! ### Refusals of the decoder and of WellFormed (R109 (d), R103, R175, R183, R205) -/

theorem test_refuse_error_and_byte : decode .dmx 0b11000 = .error .errorAndByteState ∧
    decode .dmx 0b10110 = .error .errorAndByteState := by decide
theorem test_refuse_seq_three : decode .seq 0b00110 = .error .seqStateThree ∧
    decode .seq 0b00111 = .error .seqStateThree := by decide
theorem test_refuse_too_wide : decode .nco 0b00010 = .error .tooWide ∧ decode .seq 0b01000 = .error .tooWide := by decide
theorem test_ill_formed_hold : (Instr.dmxHold true true false false).wellFormed = false ∧
    (Instr.dmxHold true false true false).wellFormed = false := by decide
theorem test_ill_formed_resync : (Instr.dmxResync true false false).wellFormed = false ∧
    (Instr.dmxResync false true false).wellFormed = false := by decide
theorem test_no_middle_byte : Instr.dmxMid.existsAt 2 = false ∧ Instr.dmxMid.existsAt 4 = true := by decide
theorem test_single_byte_subframe : Instr.dmxLast.existsAt 1 = false ∧ (Instr.dmxViolate true).existsAt 1 = false ∧
    (Instr.dmxResync false false true).existsAt 1 = false ∧ Instr.muxByte.existsAt 1 = false ∧
    (Instr.dmxStart true false).existsAt 1 = true ∧ (Instr.dmxStart true false).existsAt 2 = false := by decide
theorem test_table_word : decodeTableWord 8 0x0A = some .dmxLast ∧ decodeTableWord 8 0x12 = some (.dmxResync false false false) ∧
    decodeTableWord 8 0x18 = none := by decide

/-! ### One operation each -/

/-- R126's example: `cycles = 4`, `CNT = 0` gives `pulse = 1`, `CNT = 3`. -/
theorem test_rdiv_reload : (result (execRdivReload .sample (machine .d8 true (fun r => { r with cntSample := 0 }) [quiet]))).map
    (fun t => (t.next.cntSample, t.out.pulseSample)) = some (3, true) := by decide +kernel

/-- R127's example: `CNT = 3` gives `pulse = 0`, `CNT = 2`. -/
theorem test_rdiv_count : (result (execRdivCount .sample (machine .d8 true (fun r => { r with cntSample := 3 }) [quiet]))).map
    (fun t => (t.next.cntSample, t.out.pulseSample)) = some (2, false) := by decide +kernel

/-- R147's example: `PHASE = 30`, increment 12: the consumer takes 108, `PHASE = 10`. -/
theorem test_nco_advance : (result (execNcoAdvance (machine .d8 true (fun r => { r with phase := 30 })
    [{ ncoReady := true, phaseIncrement := 12 }]))).map
    (fun t => (t.next.phase, t.out.ncoSample)) = some (10, 108) := by decide +kernel

/-- V-NCO-7: `PHASE = 8` held, the sample is -45. -/
theorem test_nco_hold : (result (execNcoHold (machine .d8 true (fun r => { r with phase := 8 })
    [{ phaseIncrement := 12 }]))).map (fun t => (t.next.phase, t.out.ncoSample)) = some (8, 0xD3) := by decide +kernel

/-- R173's example: `DSTATE = BYTE2`, no input: unchanged; `in_ready = anyready`. -/
theorem test_dmx_hold : (result (execDmxHold false false false false (machine .d24 true (fun r => { r with dstate := .byte 2 })
    [{ dmxReady := [false, true] }]))).map (fun t => (t.next.dstate, t.out.dmxInReady)) = some (.byte 2, true) := by
  decide +kernel

/-- R174's example: `CHAN = 0`, an unmarked beat 00 in BYTE0: `CHAN = 1`, `DSTATE = BYTE1`. -/
theorem test_dmx_start : (result (execDmxStart false false (machine .d24 true (fun r => { r with sub := [9, 9, 9] })
    [beat 0x00 false]))).map (fun t => (t.next.chan, t.next.sub, t.next.dstate)) = some (1, [0, 9, 9], .byte 1) := by
  decide +kernel

/-- R183's example: S = 1, `CHAN = 0`, beat 22 unmarked: 0x22 on channel 1. -/
theorem test_dmx_start_emits : (result (execDmxStart true false (machine .d8 true id [beat 0x22 false]))).map
    (fun t => (t.out.dmxOutSample, t.out.dmxOutValid, t.next.chan)) = some (0x22, [false, true], 1) := by decide +kernel

/-- R175's example: `DSTATE = BYTE1`, beat 34. -/
theorem test_dmx_mid : (result (execDmxMid (machine .d24 true (fun r => { r with dstate := .byte 1 })
    [beat 0x34 false]))).map (fun t => (t.next.sub, t.next.dstate)) = some ([0, 0x34, 0], .byte 2) := by decide +kernel

/-- R176's example: b = 24, `SUB = [00, 34, 12]`, beat 00: 0x001234 on channel 0. -/
theorem test_dmx_last : (result (execDmxLast (machine .d24 true
    (fun r => { r with dstate := .byte 3, sub := [0, 0x34, 0x12] }) [beat 0x00 false]))).map
    (fun t => (t.out.dmxOutSample, t.out.dmxOutValid, t.next.dstate)) = some (0x001234, [true, false], .byte 0) := by
  decide +kernel

/-- V-DMX-2, tick 5: the sample emitted to a channel that is not ready is lost. -/
theorem test_dmx_last_lost : (result (execDmxLast (machine .d16 true (fun r => { r with dstate := .byte 1, sub := [0xCD], chan := 1 })
    [{ beat 0xAB false with dmxReady := [true, false] }]))).map
    (fun t => (t.out.dmxOutSample, t.out.dmxOutValid, t.out.dmxHandoff)) = some (0xABCD, [false, true], [false, false]) := by
  decide +kernel

/-- R177's example: `DSTATE = BYTE2`, beat 00 marked: ERROR, not consumed. -/
theorem test_dmx_violate : (result (execDmxViolate false (machine .d24 true (fun r => { r with dstate := .byte 2 })
    [beat 0x00 true]))).map (fun t => (t.next.dstate, t.out.framingError, t.out.dmxConsumed)) = some (.error, true, false) := by
  decide +kernel

/-- R178's example: ERROR, pending beat 00 marked. -/
theorem test_dmx_resync : (result (execDmxResync false false true (machine .d24 true
    (fun r => { r with dstate := .error, chan := 1, sub := [7, 7, 7] }) [beat 0x00 true]))).map
    (fun t => (t.next.chan, t.next.sub, t.next.dstate)) = some (0, [0, 7, 7], .byte 1) := by decide +kernel

/-- R204's example. -/
theorem test_mux_hold : (result (execMuxHold false (machine .d24 true (fun r => { r with off := 2 })
    [{ muxSample := [0x001234, 0] }]))).map (fun t => (t.next.off, t.out.muxOutByte)) = some (2, 0x12) := by decide +kernel

/-- R205's example: b = 24, sample 0x001234, `OFF = 1`: 0x34 is sent, `OFF = 2`. -/
theorem test_mux_byte : (result (execMuxByte (machine .d24 true (fun r => { r with off := 1 })
    [{ muxReady := true, muxSample := [0x001234, 0] }]))).map (fun t => (t.next.off, t.out.muxOutByte, t.out.muxSReady)) =
    some (2, 0x34, [false, false]) := by decide +kernel

/-- R206's example: b = 16, sample 0xABCD on channel 1, `OFF = 1`: 0xAB is sent, `s_ready[1] = 1`. -/
theorem test_mux_wrap : (result (execMuxWrap (machine .d16 true (fun r => { r with off := 1, sel := true })
    [{ muxReady := true, muxSample := [0, 0xABCD], muxValid := [true, false] }]))).map
    (fun t => (t.next.off, t.next.sel, t.out.muxOutByte, t.out.muxSReady, t.out.muxHandoff)) =
    some (0, false, 0xAB, [false, true], [false, false]) := by decide +kernel

/-- R222's example: `ACC = 0x130`, `R = 0x40`. -/
theorem test_dsm_hold : (result (execDsmHold (machine .d8 false (fun r => { r with acc := [0x130, 0], r := [0x40, 0] })
    [quiet]))).map (fun t => (t.next.acc, t.out.dacOut)) = some ([0x130, 0], [true, false]) := by decide +kernel

/-- R223's example: `ACC = 0x0F0`, `R = 0x40` gives 0x130; the stale carry of V-DSM-9 does not enter. -/
theorem test_dsm_mod : (result (execDsmMod (machine .d8 false
    (fun r => { r with cntPulse := 0, acc := [0x0F0, 0x1AB], r := [0x40, 0] }) [quiet]))).map (fun t => t.next.acc) =
    some [0x130, 0x0AB] := by decide +kernel

/-- R224's example: b = 8, signed, 0x80 gives `R = 0x00`. -/
theorem test_dsm_update : (result (execDsmUpdate (machine .d8 true (fun r => { r with seq := .latch, h := [0x80, 0x00] })
    [quiet]))).map (fun t => (t.next.r, t.next.acc)) = some ([0x00, 0x80], [0, 0]) := by decide +kernel

/-- R225's example: b = 8, unsigned, old `R = 0x40` is added, new `R = 0x10`. -/
theorem test_dsm_modupd : (result (execDsmModupd (machine .d8 false
    (fun r => { r with cntPulse := 0, seq := .latch, acc := [0x0F0, 0], r := [0x40, 0], h := [0x10, 0] }) [quiet]))).map
    (fun t => (t.next.acc, t.next.r)) = some ([0x130, 0], [0x10, 0]) := by decide +kernel

theorem test_seq_wait : (result (execSeqWait (machine .d16 true id [quiet]))).map (fun t => t.next.seq) = some .wait := by
  decide +kernel

/-- R231's example. -/
theorem test_seq_fire : (result (execSeqFire (machine .d16 true (fun r => { r with cntSample := 0 }) [quiet]))).map
    (fun t => (t.next.seq, t.out.update)) = some (.channelRead, false) := by decide +kernel

/-- R232's example: one queue is empty. -/
theorem test_seq_read : (result (execSeqRead false (machine .d24 true (fun r => { r with
      seq := .channelRead, h := [0, 0x00ABCD], q := [⟨[0x001234, 0x000001], 0⟩, ⟨[], 0x00ABCD⟩] }) [quiet]))).map
    (fun t => (t.next.h, t.next.q, t.next.seq)) =
    some ([0x001234, 0x00ABCD], [⟨[0x000001], 0x001234⟩, ⟨[], 0x00ABCD⟩], .latch) := by decide +kernel

/-- R233's example, a whole tick: `R = [0x801234, 0x80ABCD]`, `SEQ = WAIT`. -/
theorem test_seq_latch : (result (step (machine .d24 true (fun r => { r with seq := .latch, h := [0x001234, 0x00ABCD] })
    [quiet]))).map (fun t => (t.regs.r, t.regs.seq, t.out.update)) = some ([0x801234, 0x80ABCD], .wait, true) := by
  decide +kernel

/-- R251's example. -/
theorem test_vu_push : (result (execVuPush (machine .d16 true (fun r => { r with vq := ⟨[0x0001], 0⟩ })
    [{ vuValid := true, vuSample := 0xF001 }]))).map (fun t => t.next.vq.items) = some [0x0001, 0xF001] := by decide +kernel

/-- R252's example, a whole tick: 16 entries and a pop leave 15. -/
theorem test_vu_reject : (result (step (machine .d16 true (fun r => { r with cntSample := 0, vq := ⟨List.replicate 16 5, 0⟩ })
    [{ vuValid := true, vuSample := 0xF001 }]))).map (fun t => (t.regs.vq.items, t.out.vuInReady)) =
    some (List.replicate 15 5, false) := by decide +kernel

theorem test_vu_nopush : (result (execVuNopush false (machine .d16 true id [{ vuSample := 3 }]))).map
    (fun t => (t.next.vq.items, t.out.vuInReady)) = some ([], true) := by decide +kernel

/-- R255's example: b = 16, signed, `VQ = [0xF001, 0x1000]` gives `MAG = 0x0FFF`. -/
theorem test_vu_pop : (result (execVuPop (machine .d16 true (fun r => { r with cntSample := 0, vq := ⟨[0xF001, 0x1000], 0⟩ })
    [quiet]))).map (fun t => (t.next.mag, t.next.vq)) = some (0x0FFF, ⟨[0x1000], 0xF001⟩) := by decide +kernel

/-- R257's example, and the bar of `MAG = 62` on `TH = [31, 44, 63, 89]`. -/
theorem test_vu_starve : (result (execVuStarve (machine .d16 true (fun r => { r with cntSample := 0, mag := 62 })
    [quiet]))).map (fun t => (t.next.mag, t.out.lit, t.out.level)) = some (62, 0b0011, 2) := by decide +kernel

/-- R263's example. -/
theorem test_vu_keep : (result (execVuKeep false (machine .d16 true (fun r => { r with mag := 4095, vq := ⟨[0x1000], 0⟩ })
    [quiet]))).map (fun t => (t.next.mag, t.next.vq.items)) = some (4095, [0x1000]) := by decide +kernel

/-- R284's example: `FB = 0x000B0666`. -/
theorem test_fb_read : (result (execFbRead 0 (machine .d16 true id [quiet]))).map (fun t => t.out.fbByte) = some 0x66 ∧
    (result (execFbRead 2 (machine .d16 true id [{ fbIndex := 2 }]))).map (fun t => t.out.fbByte) = some 0x0B := by
  decide +kernel

/-! ### Construction (V-RDIV-3, V-RDIV-7, V-NCO-1, V-VU-1, V-FB-1) and the functions of the operands -/

theorem test_cfg_rdiv : (cfgRdiv .sample 60000000 44100 1000).toOption = some 1361 ∧
    (cfgRdiv .pulse 29 20 300000).toOption = none ∧ (cfgRdiv .pulse 3 2 250000).toOption = some 2 := by decide +kernel
theorem test_cfg_table_signed : cfgTable 8 3 (1 / 2) true = [63, 44, 0, 256 - 44, 256 - 63, 256 - 44, 0, 44] := by
  decide +kernel
theorem test_cfg_table_unsigned : cfgTable 8 3 1 false = [255, 217, 127, 37, 0, 37, 127, 217] := by decide +kernel
theorem test_cfg_logscale : cfgLogscale 8 16 = [4095, 5311, 6888, 8933, 11584, 15023, 19483, 25266] := by decide +kernel
theorem test_cfg_fb : cfgFb 44100 17 = 722534 ∧ cfgFb 48000 16 = 0x00060000 := by decide +kernel
theorem test_average_floors : (List.range 8).map (fun i => signedVal 8 (ncoOutput (par .d8 true) (4 * i))) =
    [108, 44, -45, -108, -108, -45, 44, 108] := by decide +kernel
theorem test_rectify : rectify (par .d16 true) 0x8000 = 32768 ∧ rectify (par .d16 true) 0xFFFF = 1 := by decide

/-- A small configuration: cycles 4 and 2. -/
def smallConfig : Config where
  bitDepth := 8
  signed := true
  channels := 2
  phiBits := 5
  tableLength := 8
  gain := 1
  masterHz := 4
  sampleRateHz := 1
  pulseRateHz := 2
  pulseMaxPpm := 0
  segments := 4
  fifoDepth := 16
  fbShift := 16
  maxPacketSize := 2
  divInitSample := 0
  divInitPulse := 0
  phaseInit := 0
  accInit := [0x1FF, 3]
  hasMux := true
  hasDac := true

/-- The refusals come in the order of R310. -/
def refusalCode (cfg : Config) : Option Nat :=
  match construct cfg with
  | .ok _ => none
  | .error e => some e.code

theorem test_construct : refusalCode smallConfig = none ∧
    refusalCode { smallConfig with bitDepth := 20, gain := 2 } = some 2 ∧
    refusalCode { smallConfig with fbShift := 15, sampleRateHz := 3 } = some 4 ∧
    refusalCode { smallConfig with sampleRateHz := 3, maxPacketSize := 1 } = some 1 ∧
    refusalCode { smallConfig with maxPacketSize := 1 } = some 3 := by decide +kernel

/-- R304: the field and the value recorded, ACC_INIT[1] with b = 8. -/
theorem test_acc_init_refused : (match construct { smallConfig with accInit := [0x1FF, 0x200] } with
    | .ok _ => none
    | .error e => some e) = some (.eConfig (.accInit 1) 0x200) := by decide +kernel

/-- R306, R316: the tick of a violation raises the exception of code 5, the next tick none. -/
theorem test_violation_code : (result (step (machine .d16 true (fun r => { r with dstate := .byte 1 })
    [beat 1 true]))).map (fun t => t.raised.map ErrorName.code) = some (some 5) ∧
    (result (step (machine .d16 true (fun r => { r with dstate := .error }) [beat 1 true]))).map
      (fun t => t.raised) = some none := by decide +kernel

/-- V-CFG-11: State.reset is what construction answers. -/
theorem test_reset_dividers : State.reset.par.cyclesSample = 1250 ∧ State.reset.par.cyclesPulse = 2 ∧
    State.reset.par.fb = 0x000C0000 := by decide +kernel

theorem test_with_fetch_word : (State.reset.withFetchWord 8 0x0A).fetch .dmx = .ok .dmxLast ∧
    (State.reset.withFetchWord 8 0x12).fetch .dmx = .ok (.dmxResync false false false) := by decide +kernel

/-! ### Witnesses: for every statement with hypotheses, a state and operands that meet them -/

/-- A tick in which every port is busy. -/
def busy (j : Nat) : Inputs where
  phaseIncrement := 12
  ncoReady := true
  dmxByte := BitVec.ofNat 8 (j + 1)
  dmxFirst := j == 0
  dmxValid := true
  dmxReady := [true, true]
  muxValid := [true, true]
  muxSample := [0x1234, 0xABCD]
  muxReady := true
  qValid := [true, true]
  qSample := [5, 6]
  vuValid := true
  vuSample := 7
  fbIndex := 3

/-- A machine at work for eight ticks. -/
def working : State :=
  machine .d16 true (fun r => { r with cntSample := 0, cntPulse := 0, vq := ⟨[3], 2⟩, r := [9, 9] })
    ((List.range 8).map busy)

/-- A sample tick, and the sequencer reading, with queues of k entries. -/
def queued (k : Nat) : State :=
  machine .d16 true (fun r => { r with
    cntSample := 0, seq := .channelRead, vq := ⟨List.replicate k 5, 4⟩, q := [⟨List.replicate k 6, 3⟩, Fifo.reset] })
    [busy 0]

theorem witness_ok : working.Ok := by decide +kernel

theorem witness_step : ∃ t, step working = .next t := of_result (by decide +kernel)

theorem witness_StepIsTheSynchronousUpdate : ∃ s : State, s.Ok := ⟨working, witness_ok⟩

theorem witness_StepKeepsRegistersInRange : ∃ s t : State, s.Ok ∧ step s = .next t :=
  ⟨working, witness_step.choose, witness_ok, witness_step.choose_spec⟩

theorem witness_RunsNeverStop : ∃ s : State, s.Ok := ⟨working, witness_ok⟩

theorem witness_PulsesAreExactlyPeriodic : ∃ s : State, s.Ok := ⟨working, witness_ok⟩

theorem witness_PhaseIsTheSumOfAcceptedIncrements : ∃ s : State, s.Ok := ⟨working, witness_ok⟩

theorem witness_OpcodeTableSelectsOneRow : ∃ (b : Block) (w : CtrlWord), w.toNat < 2 ^ b.width ∧
    ¬ (b = .dmx ∧ w.getLsbD 4 = true ∧ (w.getLsbD 3 = true ∨ w.getLsbD 2 = true)) ∧ ¬ (b = .seq ∧ 6 ≤ w.toNat) :=
  ⟨.dmx, 0b10011, by decide⟩

theorem witness_FiringOperationsAreTheReachableOnes : ∃ p : Params, p.Ok ∧ 2 ≤ p.cyclesSample ∧ 2 ≤ p.cyclesPulse :=
  ⟨par .d16 true, by decide +kernel⟩

theorem witness_StepRunsTheSelectedOperations : ∃ (s : State) (ops : List Instr), ops.map Instr.block = s.blocks ∧
    ∀ i ∈ ops, i.wellFormed = true ∧ s.controlWord i.block = some i.encode :=
  ⟨working, [.rdivReload .sample, .rdivReload .pulse, .ncoAdvance, .dmxStart false true, .muxByte, .dsmMod, .seqFire,
    .vuPush, .vuPop, .fbRead 3], by decide +kernel⟩

theorem witness_BlockOrderIsImmaterial : ∃ (s : State) (order : List Block), s.Ok ∧ order.Perm s.blocks ∧
    order ≠ s.blocks :=
  ⟨working, working.blocks.reverse, witness_ok, List.reverse_perm _, by decide +kernel⟩

theorem witness_OperationsOwnTheirRegisters : ∃ (i : Instr) (s t : State), exec i s = .next t ∧
    i.block ≠ .rdiv .sample ∧ i.block ≠ .vui ∧ i.block ≠ .vuo :=
  have h : ∃ t, exec .ncoAdvance working = .next t := of_result (by decide +kernel)
  ⟨.ncoAdvance, working, h.choose, h.choose_spec, by decide, by decide, by decide⟩

theorem witness_OperationNotSelectedIsRefused : ∃ (i : Instr) (s : State), s.controlWord i.block ≠ some i.encode :=
  ⟨.ncoHold, working, by decide +kernel⟩

theorem witness_UnreachableCodesAreRefused :
    (∃ s : State, s.par.dstateReachable s.regs.dstate = false) ∧
    (∃ s : State, s.par.dstateReachable s.regs.dstate = true ∧ s.par.hasMux = true ∧
      s.par.offReachable s.regs.off = false) :=
  ⟨⟨machine .d16 true (fun r => { r with dstate := .byte 2 }) [], by decide +kernel⟩,
    ⟨machine .d16 true (fun r => { r with off := 2 }) [], by decide +kernel⟩⟩

/-- For RegistersHoldOtherwise: nothing moves; the last byte, a middle byte and a marker in a subframe; a byte the
multiplexer does not finish; a sample tick, and a CHANNEL_READ, on empty queues. -/
theorem witness_RegistersHoldOtherwise :
    (∃ s t : State, s.Ok ∧ step s = .next t ∧ s.inp.ncoReady = false ∧ s.go = false ∧ s.inp.muxReady = false ∧
      s.stb = false ∧ s.regs.seq = .wait ∧ s.sampleTick = false ∧ s.inp.vuValid = false ∧ s.qValid 0 = false) ∧
    (∀ k : Fin 4, 0 < k.val → ∀ first : Bool, ∃ s t : State, s.Ok ∧ step s = .next t ∧ s.regs.dstate = .byte k ∧
      s.go = true ∧ s.inp.dmxFirst = first ∧ s.par.subslot - 1 = 3) ∧
    (∃ s t : State, s.Ok ∧ step s = .next t ∧ s.regs.dstate = .error ∧ s.go = true) ∧
    (∃ s t : State, s.Ok ∧ step s = .next t ∧ s.inp.muxReady = true ∧ s.regs.off.toNat ≠ s.par.subslot - 1) ∧
    (∃ s t : State, s.Ok ∧ step s = .next t ∧ s.sampleTick = true ∧ s.regs.vq.items = [] ∧
      s.regs.seq = .channelRead ∧ (s.qOf 1).items = [] ∧ s.qValid 1 = true) ∧
    (∃ s t : State, s.Ok ∧ step s = .next t ∧ s.sampleTick = false ∧ s.inp.vuValid = true ∧
      s.regs.vq.items.length = 16 ∧ (s.qOf 0).items.length = 16 ∧ s.regs.seq ≠ .channelRead) ∧
    (∃ s t : State, s.Ok ∧ step s = .next t ∧ s.par.hasDac = false ∧ s.par.hasMux = false) := by
  have all : ∀ s ∈ [machine .d24 false id [quiet],
      machine .d32 true (fun r => { r with dstate := .error }) [beat 1 true], working, queued 0,
      { queued 16 with regs := { (queued 16).regs with cntSample := 1, seq := .wait } },
      { working with par := { par .d16 true with hasMux := false, hasDac := false } }],
      s.Ok ∧ (result (step s)).isSome = true := by decide +kernel
  have mid : ∀ k : Fin 4, ∀ first : Bool,
      (machine .d32 true (fun r => { r with dstate := .byte k }) [beat 1 first]).Ok ∧
      (result (step (machine .d32 true (fun r => { r with dstate := .byte k }) [beat 1 first]))).isSome = true ∧
      (machine .d32 true (fun r => { r with dstate := .byte k }) [beat 1 first]).go = true := by decide +kernel
  simp only [List.forall_mem_cons, List.not_mem_nil, false_imp_iff, implies_true, and_true] at all
  obtain ⟨⟨a1, b1⟩, ⟨a2, b2⟩, ⟨a3, b3⟩, ⟨a4, b4⟩, ⟨a5, b5⟩, a6, b6⟩ := all
  refine ⟨⟨_, (of_result b1).choose, a1, (of_result b1).choose_spec, by decide +kernel⟩, ?_,
    ⟨_, (of_result b2).choose, a2, (of_result b2).choose_spec, by decide +kernel⟩,
    ⟨_, (of_result b3).choose, a3, (of_result b3).choose_spec, by decide +kernel⟩,
    ⟨_, (of_result b4).choose, a4, (of_result b4).choose_spec, by decide +kernel⟩,
    ⟨_, (of_result b5).choose, a5, (of_result b5).choose_spec, by decide +kernel⟩,
    ⟨_, (of_result b6).choose, a6, (of_result b6).choose_spec, by decide +kernel⟩⟩
  intro k _ first
  obtain ⟨ok, runs, go⟩ := mid k first
  exact ⟨_, (of_result runs).choose, ok, (of_result runs).choose_spec, rfl, go, rfl, rfl⟩

theorem witness_DemultiplexerIsIsolated : ∃ (s u : State) (k : Nat), s.Ok ∧ u.Ok ∧ s.par = u.par ∧
    s.regs.dstate = u.regs.dstate ∧ s.regs.chan = u.regs.chan ∧ s.regs.sub = u.regs.sub ∧ s.regs ≠ u.regs ∧ 0 < k ∧
    ∀ j < k, (s.inputAt j).dmxValid = (u.inputAt j).dmxValid ∧ (s.inputAt j).dmxByte = (u.inputAt j).dmxByte ∧
      (s.inputAt j).dmxFirst = (u.inputAt j).dmxFirst ∧ (s.inputAt j).dmxReady = (u.inputAt j).dmxReady :=
  ⟨machine .d16 true id [busy 0, busy 1], machine .d16 true (fun r => { r with phase := 9 }) [beat 1 true, beat 2 false],
    2, by decide +kernel, by decide +kernel, rfl, rfl, rfl, rfl, by decide +kernel, by decide, by decide +kernel⟩

theorem of_made {cfg : Config} (made : (construct cfg).toOption.isSome = true) : ∃ s, construct cfg = .ok s := by
  cases h : construct cfg with
  | ok s => exact ⟨s, rfl⟩
  | error e =>
    rw [h] at made
    exact Bool.noConfusion made

theorem construct_small : ∃ s, construct smallConfig = .ok s := of_made (by decide +kernel)

theorem construct_unsigned : ∃ s, construct { smallConfig with signed := false } = .ok s := of_made (by decide +kernel)

theorem witness_ConstructedMachinesAreInRange : ∃ (cfg : Config) (s : State), construct cfg = .ok s :=
  ⟨smallConfig, construct_small⟩

theorem small_ticks (xs : List Inputs) (h : (match construct smallConfig with
      | .ok made => (result (step { made with stimulus := xs })).isSome
      | .error _ => false) = true) :
    ∃ made t, construct smallConfig = .ok made ∧ step { made with stimulus := xs } = .next t := by
  obtain ⟨made, hm⟩ := construct_small
  rw [hm] at h
  obtain ⟨t, ht⟩ := of_result h
  exact ⟨made, t, hm, ht⟩

theorem witness_ConstructionSetsEveryRegister : ∃ (cfg : Config) (s : State), construct cfg = .ok s :=
  ⟨smallConfig, construct_small⟩

theorem witness_OutputsOnTickZero : ∃ (cfg : Config) (made s t : State) (xs : List Inputs), construct cfg = .ok made ∧
    s = { made with stimulus := xs } ∧ cfg.divInitSample = 0 ∧ cfg.divInitPulse = 0 ∧ cfg.phaseInit = 0 ∧
    step s = .next t ∧ cfg.hasMux = true ∧ cfg.hasDac = true := by
  obtain ⟨made, t, hm, ht⟩ := small_ticks [quiet] (by decide +kernel)
  exact ⟨smallConfig, made, _, t, [quiet], hm, rfl, rfl, rfl, rfl, ht, rfl, rfl⟩

theorem witness_RateDividerOperations :
    (∃ s : State, s.regs.cntSample = 0) ∧ (∃ s : State, s.regs.cntPulse = 0) ∧
    (∃ s : State, s.regs.cntSample ≠ 0) ∧ (∃ s : State, s.regs.cntPulse ≠ 0) :=
  ⟨⟨working, by decide +kernel⟩, ⟨working, by decide +kernel⟩, ⟨machine .d16 true id [], by decide +kernel⟩,
    ⟨machine .d16 true id [], by decide +kernel⟩⟩

theorem witness_DividerBuiltIffRoundedDivisorWithinTolerance : ∃ m t : Rat, 0 < m ∧ 0 < t :=
  ⟨60000000, 44100, by decide +kernel⟩

theorem witness_ZeroToleranceAcceptsIntegerQuotientsOnly : ∃ m t : Rat, 0 < m ∧ 0 < t := ⟨60000000, 48000, by decide +kernel⟩

theorem witness_OscillatorOperations : (∃ s : State, s.inp.ncoReady = true) ∧ (∃ s : State, s.inp.ncoReady = false) :=
  ⟨⟨working, by decide +kernel⟩, ⟨machine .d16 true id [quiet], by decide +kernel⟩⟩

theorem witness_OutputIsFloorOfMeanOfTwoEntries : ∃ (p : Params) (phase : Nat), p.Ok ∧ phase < 2 ^ p.phiBits ∧
    phase / 2 ^ (p.phiBits - p.indexBits) + 1 = 2 ^ p.indexBits :=
  ⟨par .d8 true, 31, by decide +kernel⟩

theorem witness_PhaseReturnsAsTheIncrementDivides :
    (∃ (s : State) (k d : Nat), s.Ok ∧ (∀ j < k, (s.inputAt j).ncoReady = true ∧ (s.inputAt j).phaseIncrement = d) ∧
      k = 2 ^ s.par.indexBits ∧ 2 ^ (s.par.phiBits - s.par.indexBits) ∣ d) ∧
    (∃ (s : State) (k d : Nat), s.Ok ∧ (∀ j < k, (s.inputAt j).ncoReady = true ∧ (s.inputAt j).phaseIncrement = d) ∧
      k = 2 ^ s.par.phiBits / Nat.gcd d (2 ^ s.par.phiBits)) :=
  ⟨⟨working, 8, 12, by decide +kernel⟩, ⟨working, 8, 12, by decide +kernel⟩⟩

theorem witness_TableEntriesAreTruncatedCosines :
    (∃ (b k i : Nat) (gain : ℚ), 2 ≤ b ∧ 0 ≤ gain ∧ gain ≤ 1 ∧ i < 2 ^ k) ∧
    (∃ (cfg : Config) (s : State) (i : Nat), construct cfg = .ok s ∧ i < cfg.tableLength ∧ cfg.signed = true) ∧
    (∃ (cfg : Config) (s : State) (i : Nat), construct cfg = .ok s ∧ i < cfg.tableLength ∧ cfg.signed = false) :=
  ⟨⟨24, 8, 255, 1 / 2, by decide +kernel⟩,
    ⟨smallConfig, construct_small.choose, 7, construct_small.choose_spec, by decide, rfl⟩,
    ⟨{ smallConfig with signed := false }, construct_unsigned.choose, 7, construct_unsigned.choose_spec, by decide, rfl⟩⟩

theorem witness_DemuxHoldAndStartOperations :
    (∃ s : State, s.par.dstateReachable s.regs.dstate = true ∧ s.go = false) ∧
    (∃ s : State, s.regs.dstate = .byte 0 ∧ 1 < s.par.subslot ∧ s.go = true) ∧
    (∃ s : State, s.regs.dstate = .byte 0 ∧ s.par.subslot = 1 ∧ s.go = true) :=
  ⟨⟨machine .d16 true (fun r => { r with dstate := .error }) [quiet], by decide +kernel⟩,
    ⟨working, by decide +kernel⟩, ⟨machine .d8 true id [beat 1 false], by decide +kernel⟩⟩

theorem witness_DemuxMidAndLastOperations :
    (∃ (s : State) (k : Fin 4), s.regs.dstate = .byte k ∧ 0 < k.val ∧ k.val < s.par.subslot - 1 ∧ s.go = true ∧
      s.inp.dmxFirst = false) ∧
    (∃ (s : State) (k : Fin 4), s.regs.dstate = .byte k ∧ 0 < k.val ∧ k.val = s.par.subslot - 1 ∧
      s.regs.sub.length = s.par.subslot - 1 ∧ s.go = true ∧ s.inp.dmxFirst = false) :=
  ⟨⟨machine .d32 true (fun r => { r with dstate := .byte 2 }) [beat 1 false], 2, by decide +kernel⟩,
    ⟨machine .d32 true (fun r => { r with dstate := .byte 3 }) [beat 1 false], 3, by decide +kernel⟩⟩

theorem witness_DemuxViolateAndResyncOperations :
    (∃ (s : State) (k : Fin 4), s.regs.dstate = .byte k ∧ 0 < k.val ∧ k.val < s.par.subslot ∧ s.go = true ∧
      s.inp.dmxFirst = true) ∧
    (∃ s : State, s.regs.dstate = .error ∧ 1 < s.par.subslot ∧ s.go = true) :=
  ⟨⟨machine .d16 true (fun r => { r with dstate := .byte 1 }) [beat 1 true], 1, by decide +kernel⟩,
    ⟨machine .d16 true (fun r => { r with dstate := .error }) [beat 1 true], by decide +kernel⟩⟩

theorem witness_SubframeInGivesOneSampleOut : ∃ s : State, s.Ok ∧ s.regs.dstate = .byte 0 ∧
    ∀ j < s.par.subslot, (s.inputAt j).dmxValid = true ∧ AllReady (s.inputAt j) s.par.channels ∧
      (0 < j → (s.inputAt j).dmxFirst = false) :=
  ⟨machine .d24 true id [beat 0 true, beat 0x34 false, beat 0x12 false, beat 0 false], by decide +kernel⟩

theorem witness_PositionIsTheCountOfConsumedBytes : ∃ (s : State) (k : Nat), s.Ok ∧ s.regs.dstate = .byte 0 ∧ 2 < k ∧
    ∀ j < k, AllReady (s.inputAt j) s.par.channels ∧
      ((s.inputAt j).dmxValid = true → ((s.inputAt j).dmxFirst = true ↔
        ((List.range j).filter fun i => (s.inputAt i).dmxValid) = [])) :=
  ⟨machine .d16 true id [{ dmxReady := [true, true] }, beat 1 true, { dmxReady := [true, true] }, beat 2 false, beat 3 false],
    5, by decide +kernel⟩

/-- A machine in the middle of a subframe, and the beat that should have come later. -/
def broken (k : Fin 4) : State :=
  machine .d24 true (fun r => { r with dstate := .byte k, sub := [1, 2, 3], chan := 1 }) [beat 0xAA true, beat 0xAA true]

theorem witness_FramingViolationTouchesNothingElse : ∃ (s t u : State) (x : Inputs) (xs : List Inputs) (k : Fin 4),
    s.Ok ∧ s.stimulus = x :: xs ∧ s.regs.dstate = .byte k ∧ 0 < k.val ∧ s.go = true ∧ x.dmxFirst = true ∧
    step s = .next t ∧ step { s with stimulus := { x with dmxValid := false } :: xs } = .next u :=
  have h : ∃ t, step (broken 3) = .next t := of_result (by decide +kernel)
  have g : ∃ u, step { broken 3 with stimulus := { beat 0xAA true with dmxValid := false } :: [beat 0xAA true] } =
    .next u := of_result (by decide +kernel)
  ⟨broken 3, h.choose, g.choose, beat 0xAA true, [beat 0xAA true], 3, by decide +kernel, rfl, rfl, by decide,
    by decide +kernel, rfl, h.choose_spec, g.choose_spec⟩

theorem witness_RecoveryEqualsAFreshStart : ∃ (s : State) (x : Inputs) (xs : List Inputs) (k : Fin 4), s.Ok ∧
    s.stimulus = x :: x :: xs ∧ s.regs.dstate = .byte k ∧ 0 < k.val ∧ s.go = true ∧ x.dmxFirst = true :=
  ⟨broken 1, beat 0xAA true, [], 1, by decide +kernel⟩

theorem witness_EmissionIsOneHotAndHandedOff : ∃ s t : State, s.Ok ∧ step s = .next t ∧ s.ReadyTogether :=
  ⟨working, witness_step.choose, witness_ok, witness_step.choose_spec, by decide +kernel⟩

theorem witness_MultiplexerOperations :
    (∃ s : State, s.par.hasMux = true ∧ s.regs.off.toNat < s.par.subslot ∧ s.inp.muxReady = false) ∧
    (∃ s : State, s.par.hasMux = true ∧ s.regs.off.toNat < s.par.subslot ∧ s.inp.muxReady = true ∧
      s.regs.off.toNat ≠ s.par.subslot - 1) ∧
    (∃ s : State, s.par.hasMux = true ∧ s.regs.off.toNat < s.par.subslot ∧ s.inp.muxReady = true ∧
      s.regs.off.toNat = s.par.subslot - 1) :=
  ⟨⟨machine .d16 true id [quiet], by decide +kernel⟩, ⟨working, by decide +kernel⟩,
    ⟨machine .d32 true (fun r => { r with off := 3 }) [busy 0], by decide +kernel⟩⟩

theorem witness_UnpackingInvertsPacking : ∃ (d : BitDepth) (v : Nat), v < 2 ^ d.bits := ⟨.d24, 0xFFFFFF, by decide⟩

theorem witness_OffsetAndSelectorCountAcceptedBytes : ∃ s : State, s.Ok ∧ s.par.hasMux = true ∧ s.regs.off = 0 ∧
    s.regs.sel = false := ⟨working, by decide +kernel⟩

/-- Two subframes of 16-bit samples around the loop. -/
def loop : State :=
  machine .d16 true (fun r => { r with chan := 1 }) (([(0x34, 0), (0x12, 1), (0xCD, 2), (0xAB, 3)] : List (Byte × Nat)).map
    fun e => { busy e.2 with dmxByte := e.1 })

theorem witness_LoopbackReproducesEverySample : ∃ (s : State) (n : Nat) (v : Nat → Nat), s.Ok ∧ s.par.hasMux = true ∧
    s.regs.off = 0 ∧ s.regs.sel = false ∧ s.regs.dstate = .byte 0 ∧ 1 < n ∧
    (∀ j < n * s.par.subslot, (s.inputAt j).muxReady = true ∧ (s.inputAt j).dmxValid = true ∧
      AllReady (s.inputAt j) 2 ∧ ((s.inputAt j).dmxFirst = true ↔ j = 0) ∧
      (s.ran (j + 1)).map (fun u => u.out.muxOutByte) = some (s.inputAt j).dmxByte) ∧
    (∀ m < n, ∀ j < s.par.subslot,
      (s.inputAt (m * s.par.subslot + j)).muxSample[m % 2]? = some (v m) ∧ v m < 2 ^ s.par.bits) :=
  ⟨loop, 2, fun m => if m = 0 then 0x1234 else 0xABCD, by decide +kernel, rfl, rfl, rfl, rfl, by decide, by decide +kernel,
    by decide +kernel⟩

theorem witness_ModulatorOperations :
    (∃ s : State, s.par.hasDac = true ∧ s.regs.seq ≠ .latch ∧ s.regs.cntPulse ≠ 0) ∧
    (∃ s : State, s.par.hasDac = true ∧ s.regs.seq ≠ .latch ∧ s.regs.cntPulse = 0) ∧
    (∃ s : State, s.par.hasDac = true ∧ s.regs.seq = .latch ∧ s.regs.cntPulse ≠ 0) ∧
    (∃ s : State, s.par.hasDac = true ∧ s.regs.seq = .latch ∧ s.regs.cntPulse = 0) :=
  ⟨⟨machine .d16 true id [], by decide +kernel⟩, ⟨working, by decide +kernel⟩,
    ⟨machine .d16 true (fun r => { r with seq := .latch }) [], by decide +kernel⟩,
    ⟨machine .d16 true (fun r => { r with seq := .latch, cntPulse := 0 }) [], by decide +kernel⟩⟩

theorem witness_SequencerOperations :
    (∃ s : State, s.par.hasDac = true ∧ s.regs.seq = .wait ∧ s.regs.cntSample ≠ 0) ∧
    (∃ s : State, s.par.hasDac = true ∧ s.regs.seq = .wait ∧ s.regs.cntSample = 0) ∧
    (∃ s : State, s.par.hasDac = true ∧ s.regs.seq = .channelRead) ∧
    (∃ s : State, s.par.hasDac = true ∧ s.regs.seq = .latch) :=
  ⟨⟨machine .d16 true id [], by decide +kernel⟩, ⟨working, by decide +kernel⟩,
    ⟨machine .d16 true (fun r => { r with seq := .channelRead }) [], by decide +kernel⟩,
    ⟨machine .d16 true (fun r => { r with seq := .latch }) [], by decide +kernel⟩⟩

theorem witness_OffsetBinaryAddsHalfScale :
    (∃ (p : Params) (v : Nat), v < 2 ^ p.bits ∧ p.signed = true) ∧
    (∃ (p : Params) (v : Nat), v < 2 ^ p.bits ∧ p.signed = false) :=
  ⟨⟨par .d8 true, 0xFF, by decide⟩, ⟨par .d8 false, 0xFF, by decide⟩⟩

theorem witness_ModulationLeavesResidueAndCarry : ∃ (s t : State) (c : Nat), s.Ok ∧ s.par.hasDac = true ∧ s.stb = true ∧
    c < s.par.channels ∧ step s = .next t :=
  ⟨working, witness_step.choose, 1, by decide +kernel, by decide +kernel, by decide +kernel, by decide +kernel,
    witness_step.choose_spec⟩

theorem witness_PulseDensityIsTheFloorOfTheMean : ∃ (s : State) (k c r : Nat), s.Ok ∧ s.par.hasDac = true ∧
    c < s.par.channels ∧ 1 < k ∧ ∀ j < k, ∃ u, s.ran j = some u ∧ u.rOf c = r :=
  have h : ∀ j < 3, (working.ran j).map (fun u => u.rOf 1) = some 9 := by decide +kernel
  ⟨working, 3, 1, 9, by decide +kernel, by decide +kernel, by decide +kernel, by decide,
    fun j hj => by simpa only [Option.map_eq_some_iff] using h j hj⟩

theorem witness_UpdateComesOncePerSamplePeriod : ∃ s : State, s.Ok ∧ s.par.hasDac = true ∧ s.regs.seq = .wait :=
  ⟨working, by decide +kernel⟩

theorem witness_AllChannelsUpdateTogether : ∃ s : State, s.Ok ∧ s.par.hasDac = true ∧ s.regs.seq = .wait ∧
    s.sampleTick = true := ⟨working, by decide +kernel⟩

theorem witness_PushAndPopInOneTick : ∀ k ∈ [0, 1, 15, 16], ∃ s t : State, s.Ok ∧ step s = .next t ∧
    s.sampleTick = true ∧ s.inp.vuValid = true ∧ s.regs.vq.items.length = k ∧ s.par.hasDac = true ∧
    s.regs.seq = .channelRead ∧ s.qValid 0 = true ∧ (s.qOf 0).items.length = k := by
  intro k hk
  have h : ∀ k ∈ [0, 1, 15, 16], (result (step (queued k))).isSome = true ∧ (queued k).Ok ∧ (queued k).sampleTick = true ∧
      (queued k).inp.vuValid = true ∧ (queued k).regs.vq.items.length = k ∧ (queued k).par.hasDac = true ∧
      (queued k).regs.seq = .channelRead ∧ (queued k).qValid 0 = true ∧ ((queued k).qOf 0).items.length = k := by
    decide +kernel
  obtain ⟨h1, h2, h3⟩ := h k hk
  obtain ⟨t, ht⟩ := of_result h1
  exact ⟨queued k, t, h2, ht, h3⟩

theorem witness_MeterInputOperations :
    (∃ s : State, s.inp.vuValid = true ∧ s.regs.vq.items.length ≠ 16) ∧
    (∃ s : State, s.inp.vuValid = true ∧ s.regs.vq.items.length = 16) ∧ (∃ s : State, s.inp.vuValid = false) :=
  ⟨⟨queued 15, by decide +kernel⟩, ⟨queued 16, by decide +kernel⟩, ⟨machine .d16 true id [quiet], by decide +kernel⟩⟩

theorem witness_MeterOutputOperations :
    (∃ (s : State) (x y last : Nat) (xs ys : List Nat), s.regs.cntSample = 0 ∧ s.regs.vq.items = x :: xs ∧
      s.next.vq = ⟨y :: ys, last⟩) ∧
    (∃ s : State, s.regs.cntSample = 0 ∧ s.regs.vq.items = []) ∧ (∃ s : State, s.regs.cntSample ≠ 0) :=
  ⟨⟨queued 1, 5, 5, 4, [], [], by decide +kernel⟩, ⟨queued 0, by decide +kernel⟩,
    ⟨machine .d16 true id [], by decide +kernel⟩⟩

theorem witness_RectifierIsTheAbsoluteValue :
    (∃ (p : Params) (v : Nat), v < 2 ^ p.bits ∧ p.signed = true) ∧
    (∃ (p : Params) (v : Nat), v < 2 ^ p.bits ∧ p.signed = false) :=
  ⟨⟨par .d16 true, 0x8000, by decide⟩, ⟨par .d16 false, 0xFFFF, by decide⟩⟩

theorem witness_BarFillsFromBelow : ∃ (th : List Nat) (mag more : Nat), th.Pairwise (· ≤ ·) ∧ mag ≤ more :=
  ⟨[31, 44, 44, 89], 44, 45, by decide⟩

theorem witness_ThresholdsAreTheFloorsOfTheLogScale :
    (∃ g b i m : Nat, 1 ≤ g ∧ 1 ≤ b ∧ i < g ∧ m = 2 ^ (b - 1) - 1) ∧
    (∃ (cfg : Config) (s : State) (i : Nat), construct cfg = .ok s ∧ i < cfg.segments) :=
  ⟨⟨8, 16, 7, 32767, by decide⟩, ⟨smallConfig, construct_small.choose, 3, construct_small.choose_spec, by decide⟩⟩

theorem witness_ThresholdsAreNonDecreasingWithinFullScale : ∃ g b m : Nat, 1 ≤ g ∧ 1 ≤ b ∧ m = 2 ^ (b - 1) - 1 :=
  ⟨4, 8, 127, by decide⟩

theorem witness_FeedbackValueIsTheRoundedRate : ∃ (cfg : Config) (made s t : State) (xs : List Inputs) (k : Nat),
    construct cfg = .ok made ∧ s = { made with stimulus := xs } ∧ s.ran k = some t ∧ 0 < k := by
  obtain ⟨made, t, hm, ht⟩ := small_ticks [quiet] (by decide +kernel)
  exact ⟨smallConfig, made, _, t, [quiet], 1, hm, rfl, by
    simp only [State.ran, core, Host.Core.run, ht], by decide⟩

end Sys2Proof.Tests
end

namespace Sys2Proof.Machine

/-! ## A tick is the synchronous update (R70)

The blocks' laws of Laws/Tick.lean, read in the blocks' order, give the registers that a tick has written before the
write side of `Q[c]` takes its turn; that write side then gives Machine/RegisterView.lean. -/

/-- The registers that the blocks' operations have written when the last of them is done: everything of the register
view except the write side of `Q[c]` (R237), which comes at the end of the tick. -/
def State.regsBeforePush (s : State) : Regs :=
  { s.regsAfter with q := if s.reading then s.perChannel fun c => (s.qOf c).pop else s.regs.q }

/-- Room in a FIFO, as the control words and as the register view have it (R64). -/
theorem Fifo.not_isFull (q : Fifo) : (!q.isFull) = decide (q.items.length ≠ 16) := by
  by_cases h : q.items.length = 16 <;> simp [Fifo.isFull, h]

/-- The input side pushes before the output side pops; judged on the occupancy before the tick, that is `VQ` of the
register view (R67). -/
theorem State.vqAfter_eq_push_then_pop (s : State) :
    (if s.sampleTick && !s.regs.vq.isEmpty then
        (if s.inp.vuValid && !s.regs.vq.isFull then s.regs.vq.append s.vuSample else s.regs.vq).pop
      else if s.inp.vuValid && !s.regs.vq.isFull then s.regs.vq.append s.vuSample else s.regs.vq) = s.vqAfter := by
  unfold State.vqAfter
  rw [← Fifo.not_isFull]
  cases s.sampleTick with
  | false => rfl
  | true =>
    by_cases hitems : s.regs.vq.items = []
    · have hpop : s.regs.vq.pop = s.regs.vq := by simp [Fifo.pop, hitems]
      simp [Fifo.isEmpty, hitems, hpop]
    · have hne : s.regs.vq.isEmpty = false := by simpa [Fifo.isEmpty] using hitems
      simp only [hne, Bool.not_false, Bool.and_self, if_true]
      split
      · exact Fifo.pop_append_comm hitems s.vuSample
      · rfl

/-- A multiplexer that is not built moves no register (log entry 15). -/
theorem State.muxRegs_eq_of_not_hasMux {s : State} (h : s.par.hasMux = false) :
    s.selAfter = s.regs.sel ∧ s.offAfter = s.regs.off := by
  simp [State.selAfter, State.offAfter, State.muxWraps, h]

/-- A DAC that is not built moves no register (log entry 15). -/
theorem State.dacRegs_eq_of_not_hasDac {s : State} (h : s.par.hasDac = false) :
    s.accAfter = s.regs.acc ∧ s.rAfter = s.regs.r ∧ s.seqAfter = s.regs.seq ∧ s.hAfter = s.regs.h ∧
      s.reading = false ∧ s.qAfter = s.regs.q := by
  simp [State.accAfter, State.rAfter, State.seqAfter, State.hAfter, State.reading, State.qAfter, h]

/-- The write side of `Q[c]` after the sequencer's pop is `Q[c]` of the register view (R67, R237). -/
theorem State.pushQueues_regsBeforePush (s : State) (o : Outputs) :
    (s.inTick s.regsBeforePush o).pushQueues = s.inTick s.regsAfter o := by
  cases hdac : s.par.hasDac with
  | false =>
    obtain ⟨-, -, -, -, hread, hq⟩ := State.dacRegs_eq_of_not_hasDac hdac
    simp [State.pushQueues, State.inTick, State.regsBeforePush, State.regsAfter, hdac, hread, hq]
  | true =>
    have hpopped : ∀ c < s.par.channels, s.regsBeforePush.q.getD c Fifo.reset =
        if s.reading then (s.qOf c).pop else s.qOf c := by
      intro c hc
      cases hread : s.reading with
      | true => simpa [State.regsBeforePush, hread] using s.perChannel_getD (fun c => (s.qOf c).pop) Fifo.reset hc
      | false => simp [State.regsBeforePush, hread, State.qOf]
    have hqueues : (s.perChannel fun c =>
        if s.qValid c && !(s.qOf c).isFull then (s.regsBeforePush.q.getD c Fifo.reset).append (s.qSample c)
        else s.regsBeforePush.q.getD c Fifo.reset) = s.qAfter := by
      simp only [State.qAfter, hdac, if_true]
      apply State.perChannel_congr rfl
      intro c hc
      rw [hpopped c hc, Fifo.not_isFull]
    rw [State.pushQueues, if_pos (show (s.inTick _ o).par.hasDac = true from hdac)]
    exact congrArg (fun q => s.inTick { s.regsBeforePush with q := q } o) hqueues

/-- Blocks that answer let the rest of the tick go on. -/
theorem runBlocks_append_of_next {bs : List Block} :
    ∀ {as : List Block} {s t : State}, runBlocks as s = .next t → runBlocks (as ++ bs) s = runBlocks bs t
  | [], s, t, h => by
    obtain rfl : s = t := Host.Outcome.next.inj h
    rfl
  | a :: as, s, t, h => by
    simp only [runBlocks, List.cons_append] at h ⊢
    cases ha : runBlock a s with
    | next u =>
      rw [ha] at h
      exact runBlocks_append_of_next (as := as) h
    | fault r => rw [ha] at h; cases h
    | refused r => rw [ha] at h; cases h

/-! ### The four parts of a tick: dividers, oscillator and demultiplexer; multiplexer; DAC; meter and feedback -/

/-- The registers after the part of the tick that every machine has in front. -/
def State.regsAfterFront (s : State) : Regs :=
  { s.regs with
    cntSample := s.cntAfter .sample, cntPulse := s.cntAfter .pulse, phase := s.phaseAfter
    dstate := s.dmxRow.dstate, chan := s.dmxRow.chan, sub := s.dmxRow.sub }

/-- The ports driven by that part. -/
def State.outAfterFront (s : State) : Outputs :=
  { pulseSample := s.sampleTick
    pulseMod := s.stb
    ncoValid := true
    ncoSample := ncoOutput s.par s.regs.phase
    dmxInReady := s.dmxRow.inReady
    dmxConsumed := s.inp.dmxValid && s.dmxRow.inReady
    dmxOutValid := s.perChannel fun c => s.dmxRow.emit.any fun e => e.1 == c
    dmxOutSample := (s.dmxRow.emit.map fun e => e.2).getD 0
    dmxHandoff := s.perChannel fun c => (s.dmxRow.emit.any fun e => e.1 == c) && s.dmxReady c
    framingError := s.dmxRow.violation }

/-- The registers after the multiplexer's part. -/
def State.regsAfterMux (s : State) : Regs := { s.regsAfterFront with sel := s.selAfter, off := s.offAfter }

/-- The ports driven up to there, as the register view shows them. -/
def State.outAfterMux (s : State) : Outputs :=
  { s.outAfterFront with
    muxOutValid := s.outDuring.muxOutValid, muxOutByte := s.outDuring.muxOutByte
    muxSReady := s.outDuring.muxSReady, muxHandoff := s.outDuring.muxHandoff }

/-- The registers after the DAC's part. -/
def State.regsAfterDac (s : State) : Regs :=
  { s.regsAfterMux with
    acc := s.accAfter, r := s.rAfter, seq := s.seqAfter, h := s.hAfter, q := s.regsBeforePush.q }

/-- The ports driven up to there, as the register view shows them. -/
def State.outAfterDac (s : State) : Outputs :=
  { s.outAfterMux with
    dacOut := s.outDuring.dacOut, qReady := s.outDuring.qReady, update := s.outDuring.update }

theorem runBlocks_front (s : State) (hd : s.par.dstateReachable s.regs.dstate = true) :
    runBlocks [.rdiv .sample, .rdiv .pulse, .nco, .dmx] s.beginTick =
      .next (s.inTick s.regsAfterFront s.outAfterFront) := by
  rw [State.beginTick_eq_inTick, runBlocks_cons_of_next (tick_sampleDivider ..),
    runBlocks_cons_of_next (tick_pulseDivider ..), runBlocks_cons_of_next (tick_nco (keep := rfl) ..),
    runBlocks_cons_of_next (tick_dmx (h := hd) (keep1 := rfl) (keep2 := rfl) (keep3 := rfl) ..)]
  rfl

theorem runBlocks_muxPart (s : State) (ho : s.par.offReachable s.regs.off = true) :
    runBlocks (if s.par.hasMux then [.mux] else []) (s.inTick s.regsAfterFront s.outAfterFront) =
      .next (s.inTick s.regsAfterMux s.outAfterMux) := by
  cases hmux : s.par.hasMux with
  | false =>
    obtain ⟨hsel, hoff⟩ := State.muxRegs_eq_of_not_hasMux hmux
    simp only [State.regsAfterMux, State.outAfterMux, State.outDuring, hsel, hoff, hmux]
    rfl
  | true =>
    simp only [if_true]
    refine (runBlocks_cons_of_next (tick_mux (h := hmux) (ho := ho) (keep1 := rfl) (keep2 := rfl) ..)).trans ?_
    simp only [State.regsAfterMux, State.outAfterMux, State.outDuring, hmux]
    rfl

theorem runBlocks_dacPart (s : State) :
    runBlocks (if s.par.hasDac then [.dsm, .seq] else []) (s.inTick s.regsAfterMux s.outAfterMux) =
      .next (s.inTick s.regsAfterDac s.outAfterDac) := by
  cases hdac : s.par.hasDac with
  | false =>
    obtain ⟨hacc, hr, hseq, hh, hread, -⟩ := State.dacRegs_eq_of_not_hasDac hdac
    simp only [State.regsAfterDac, State.outAfterDac, State.outDuring, State.regsBeforePush, hacc, hr, hseq, hh,
      hread, hdac]
    rfl
  | true =>
    simp only [if_true]
    refine (runBlocks_cons_of_next (tick_dsm (h := hdac) (keep1 := rfl) (keep2 := rfl) ..)).trans ?_
    refine (runBlocks_cons_of_next (tick_seq (h := hdac) (keep1 := rfl) (keep2 := rfl) (keep3 := rfl) ..)).trans ?_
    simp only [State.regsAfterDac, State.outAfterDac, State.outDuring, hdac, ← Fifo.not_isFull]
    rfl

theorem runBlocks_tail (s : State) :
    runBlocks [.vui, .vuo, .fb] (s.inTick s.regsAfterDac s.outAfterDac) =
      .next (s.inTick s.regsBeforePush s.outDuring) := by
  refine (runBlocks_cons_of_next (tick_vui ..)).trans ?_
  refine (runBlocks_cons_of_next (tick_vuo (keep := rfl) ..)).trans ?_
  refine (runBlocks_cons_of_next (tick_fb ..)).trans ?_
  simp only [State.regsBeforePush, State.regsAfter, State.outDuring, ← s.vqAfter_eq_push_then_pop, ← Fifo.not_isFull]
  rfl

/-- All blocks of a tick together. -/
theorem runBlocks_blocks (s : State) (hd : s.par.dstateReachable s.regs.dstate = true)
    (ho : s.par.offReachable s.regs.off = true) :
    runBlocks s.blocks s.beginTick = .next (s.inTick s.regsBeforePush s.outDuring) := by
  unfold State.blocks
  rw [List.append_assoc, List.append_assoc, runBlocks_append_of_next (runBlocks_front s hd),
    runBlocks_append_of_next (runBlocks_muxPart s ho), runBlocks_append_of_next (runBlocks_dacPart s), runBlocks_tail]

/-- A tick from reachable codes answers the register view's next state (R70, R109 (d)). -/
theorem step_eq_afterTick (s : State) (hd : s.par.dstateReachable s.regs.dstate = true)
    (ho : s.par.offReachable s.regs.off = true) : step s = .next s.afterTick := by
  simp only [step, runBlocks_blocks s hd ho, State.endTick, State.pushQueues_regsBeforePush]
  rfl

/-! ## The ranges of R42, register by register -/

/-! ### Values of the operands -/

theorem Params.bits_pos (p : Params) : 0 < p.bits := by
  unfold Params.bits
  cases p.depth <;> decide

theorem trunc_lt (n v : Nat) : trunc n v < 2 ^ n := Nat.mod_lt v (Nat.two_pow_pos n)

/-- The sum of a residue and a sample needs one bit more (R223). -/
theorem modSum_lt (p : Params) {acc r : Pattern} (hr : r < 2 ^ p.bits) : modSum p acc r < 2 ^ (p.bits + 1) := by
  calc
    modSum p acc r < 2 ^ p.bits + 2 ^ p.bits := Nat.add_lt_add (trunc_lt p.bits acc) hr
    _ = 2 ^ (p.bits + 1) := by ring

theorem offsetBinary_lt (p : Params) {v : Pattern} (hv : v < 2 ^ p.bits) : offsetBinary p v < 2 ^ p.bits := by
  unfold offsetBinary
  split
  · exact Nat.xor_lt_two_pow hv (Nat.pow_lt_pow_right (by decide) (Nat.sub_lt p.bits_pos (by decide)))
  · exact hv

/-- The values of MAG (R42): a signed machine reaches `2^(b-1)`, the magnitude of the most negative sample (R256). -/
abbrev Params.MagOk (p : Params) (m : Pattern) : Prop :=
  if p.signed then m ≤ 2 ^ (p.bits - 1) else m < 2 ^ p.bits

theorem natAbs_signedVal_le {n v : Nat} (hn : 0 < n) (hv : v < 2 ^ n) : (signedVal n v).natAbs ≤ 2 ^ (n - 1) := by
  have hpow : 2 * 2 ^ (n - 1) = 2 ^ n := by rw [← pow_succ', Nat.sub_add_cancel hn]
  unfold signedVal
  split
  · omega
  · have hcast : ((2 : Int) ^ n) = ((2 ^ n : Nat) : Int) := by push_cast; rfl
    omega

theorem rectify_magOk (p : Params) {v : Pattern} (hv : v < 2 ^ p.bits) : p.MagOk (rectify p v) := by
  unfold Params.MagOk rectify
  split
  · exact natAbs_signedVal_le p.bits_pos hv
  · exact hv

/-! ### Lists with one value per channel -/

/-- What holds of a list's entries and of the default holds of every reading. -/
theorem getD_of_forall_mem {α : Type} {P : α → Prop} {l : List α} {d : α} (hl : ∀ x ∈ l, P x) (hd : P d) (c : Nat) :
    P (l.getD c d) := by
  rcases Nat.lt_or_ge c l.length with hc | hc
  · rw [List.getD_eq_getElem _ _ hc]
    exact hl _ (List.getElem_mem hc)
  · rw [List.getD_eq_default _ _ hc]
    exact hd

/-- A per-channel register that a tick either rewrites on every channel or leaves alone keeps its length and the
range of its entries. -/
theorem State.ite_perChannel_inRange {α : Type} {P : α → Prop} {s : State} {f : Nat → α} {l : List α} (b : Bool)
    (hlen : l.length = s.par.channels) (hl : ∀ x ∈ l, P x) (hf : ∀ c, P (f c)) :
    (if b then s.perChannel f else l).length = s.par.channels ∧ ∀ x ∈ if b then s.perChannel f else l, P x := by
  cases b with
  | false => exact ⟨hlen, hl⟩
  | true =>
    refine ⟨s.perChannel_length f, fun x hx => ?_⟩
    obtain ⟨c, -, rfl⟩ := State.mem_perChannel.1 hx
    exact hf c

/-! ### Dividers and oscillator -/

theorem State.cntAfter_lt {s : State} {d : Divider} (h : s.cnt d < s.par.cycles d) :
    s.cntAfter d < s.par.cycles d := by
  unfold State.cntAfter
  split <;> omega

theorem State.phaseAfter_lt {s : State} (h : s.regs.phase < 2 ^ s.par.phiBits) :
    s.phaseAfter < 2 ^ s.par.phiBits := by
  unfold State.phaseAfter
  split
  · exact trunc_lt _ _
  · exact h

/-! ### Demultiplexer and multiplexer -/

theorem Params.subslot_le_four (p : Params) : p.subslot ≤ 4 := by
  unfold Params.subslot
  cases p.depth <;> decide

theorem Params.dstateReachable_byte {p : Params} {k : Fin 4} :
    p.dstateReachable (.byte k) = true ↔ k.val < p.subslot := by
  simp [Params.dstateReachable]

theorem Params.dstateReachable_error {p : Params} : p.dstateReachable .error = true ↔ 1 < p.subslot := by
  simp [Params.dstateReachable]

/-- The row of R182 that holds leads to a reachable code, to a channel that exists and keeps the length of SUB. -/
theorem State.dmxRow_inRange {s : State} (hd : s.par.dstateReachable s.regs.dstate = true)
    (hc : s.regs.chan < s.par.channels) :
    s.par.dstateReachable s.dmxRow.dstate = true ∧ s.dmxRow.chan < s.par.channels ∧
      s.dmxRow.sub.length = s.regs.sub.length := by
  have hsize := s.par.subslot_le_four
  have hpos : 0 < s.par.channels := Nat.zero_lt_of_lt hc
  have hch : (if s.inp.dmxFirst then 0 else (s.regs.chan + 1) % s.par.channels) < s.par.channels := by
    split
    · exact hpos
    · exact Nat.mod_lt _ hpos
  cases hgo : s.go with
  | false =>
    simp only [State.dmxRow, hgo, if_true]
    exact ⟨hd, hc, trivial⟩
  | true =>
    simp only [State.dmxRow, hgo, Bool.true_eq_false, if_false]
    generalize (if s.inp.dmxFirst then 0 else (s.regs.chan + 1) % s.par.channels) = ch at hch ⊢
    cases hst : s.regs.dstate with
    | error =>
      rw [hst, Params.dstateReachable_error] at hd
      exact ⟨Params.dstateReachable_byte.2 hd, hpos, List.length_set⟩
    | byte k =>
      rw [hst, Params.dstateReachable_byte] at hd
      dsimp only
      split_ifs with hk hone hfirst hlast
      · exact ⟨Params.dstateReachable_byte.2 (Nat.zero_lt_of_lt hd), hch, rfl⟩
      · exact ⟨Params.dstateReachable_byte.2 (show 1 < _ by omega), hch, List.length_set⟩
      · exact ⟨Params.dstateReachable_error.2 (by omega), hc, rfl⟩
      · exact ⟨Params.dstateReachable_byte.2 (Nat.zero_lt_of_lt hd), hc, rfl⟩
      · have hnext : (k + 1).val = k.val + 1 := Fin.val_add_one_of_lt' (by omega)
        exact ⟨Params.dstateReachable_byte.2 (by omega), hc, List.length_set⟩

theorem State.offAfter_reachable {s : State} (h : s.par.offReachable s.regs.off = true) :
    s.par.offReachable s.offAfter = true := by
  simp only [Params.offReachable, decide_eq_true_eq] at h ⊢
  have hsize := s.par.subslot_le_four
  unfold State.offAfter
  split_ifs with hready hlast
  · exact Nat.zero_lt_of_lt h
  · have hne : s.regs.off.toNat ≠ s.par.subslot - 1 := by simpa [State.atLastOffset] using hlast
    calc
      (s.regs.off + 1).toNat ≤ s.regs.off.toNat + 1 := by rw [BitVec.toNat_add]; exact Nat.mod_le _ _
      _ < s.par.subslot := by omega
  · exact h

/-! ### DAC -/

theorem State.accAfter_inRange {s : State} (hlen : s.regs.acc.length = s.par.channels)
    (hacc : ∀ a ∈ s.regs.acc, a < 2 ^ (s.par.bits + 1)) (hr : ∀ v ∈ s.regs.r, v < 2 ^ s.par.bits) :
    s.accAfter.length = s.par.channels ∧ ∀ a ∈ s.accAfter, a < 2 ^ (s.par.bits + 1) :=
  State.ite_perChannel_inRange _ hlen hacc fun c =>
    modSum_lt s.par (getD_of_forall_mem hr (Nat.two_pow_pos _) c)

theorem State.rAfter_inRange {s : State} (hlen : s.regs.r.length = s.par.channels)
    (hr : ∀ v ∈ s.regs.r, v < 2 ^ s.par.bits) (hh : ∀ v ∈ s.regs.h, v < 2 ^ s.par.bits) :
    s.rAfter.length = s.par.channels ∧ ∀ v ∈ s.rAfter, v < 2 ^ s.par.bits :=
  State.ite_perChannel_inRange _ hlen hr fun c =>
    offsetBinary_lt s.par (getD_of_forall_mem hh (Nat.two_pow_pos _) c)

theorem State.qOf_ok {s : State} (hq : ∀ f ∈ s.regs.q, f.Ok s.par.bits) (c : Nat) : (s.qOf c).Ok s.par.bits :=
  getD_of_forall_mem hq (Fifo.reset_ok _) c

/-- The head of a queue, or the sample held when the queue is empty. -/
theorem State.hAfter_inRange {s : State} (hlen : s.regs.h.length = s.par.channels)
    (hh : ∀ v ∈ s.regs.h, v < 2 ^ s.par.bits) (hq : ∀ f ∈ s.regs.q, f.Ok s.par.bits) :
    s.hAfter.length = s.par.channels ∧ ∀ v ∈ s.hAfter, v < 2 ^ s.par.bits := by
  refine State.ite_perChannel_inRange _ hlen hh fun c => ?_
  obtain ⟨-, hitems, -⟩ := State.qOf_ok hq c
  cases hc : (s.qOf c).items with
  | nil => exact getD_of_forall_mem hh (Nat.two_pow_pos _) c
  | cons x xs => exact hitems x (hc ▸ List.mem_cons_self)

/-- A tick of a FIFO, the pop first and the push judged on the occupancy before it (R67), keeps its form. -/
theorem Fifo.Ok.tick {b : Nat} {q : Fifo} {v : Pattern} (h : q.Ok b) (hv : v < 2 ^ b) (pop push : Bool) :
    (if push && decide (q.items.length ≠ 16) then (if pop then q.pop else q).append v
      else if pop then q.pop else q).Ok b := by
  have hpopped : (if pop then q.pop else q).Ok b := by
    split
    · exact h.pop
    · exact h
  have hle : (if pop then q.pop else q).items.length ≤ q.items.length := by
    split
    · simp [Fifo.pop_items]
    · exact le_rfl
  split
  · next hpush =>
    have hne : q.items.length ≠ 16 := of_decide_eq_true (Bool.and_eq_true_iff.1 hpush).2
    have hroom : q.items.length < 16 := lt_of_le_of_ne h.1 hne
    exact hpopped.append hv (hle.trans_lt hroom)
  · exact hpopped

theorem State.qAfter_inRange {s : State} (hlen : s.regs.q.length = s.par.channels)
    (hq : ∀ f ∈ s.regs.q, f.Ok s.par.bits) :
    s.qAfter.length = s.par.channels ∧ ∀ f ∈ s.qAfter, f.Ok s.par.bits :=
  State.ite_perChannel_inRange _ hlen hq fun c => (State.qOf_ok hq c).tick (trunc_lt _ _) s.reading (s.qValid c)

/-! ### Meter -/

theorem State.vqAfter_ok {s : State} (h : s.regs.vq.Ok s.par.bits) : s.vqAfter.Ok s.par.bits :=
  h.tick (trunc_lt _ _) s.sampleTick s.inp.vuValid

theorem State.magAfter_ok {s : State} (hvq : s.regs.vq.Ok s.par.bits) (hmag : s.par.MagOk s.regs.mag) :
    s.par.MagOk s.magAfter := by
  obtain ⟨-, hitems, -⟩ := hvq
  unfold State.magAfter
  split
  · cases hv : s.regs.vq.items with
    | nil => exact hmag
    | cons x xs => exact rectify_magOk s.par (hitems x (hv ▸ List.mem_cons_self))
  · exact hmag

/-! ### All registers -/

theorem State.regsAfter_ok {s : State} (h : s.regs.Ok s.par) : s.regsAfter.Ok s.par := by
  obtain ⟨hcs, hcp, hphase, hd, hchan, hsub, hoff, hacclen, hacc, hrlen, hr, hhlen, hh, hqlen, hq, hvq, hmag⟩ := h
  obtain ⟨hd', hchan', hsub'⟩ := State.dmxRow_inRange hd hchan
  obtain ⟨hacclen', hacc'⟩ := State.accAfter_inRange hacclen hacc hr
  obtain ⟨hrlen', hr'⟩ := State.rAfter_inRange hrlen hr hh
  obtain ⟨hhlen', hh'⟩ := State.hAfter_inRange hhlen hh hq
  obtain ⟨hqlen', hq'⟩ := State.qAfter_inRange hqlen hq
  exact ⟨State.cntAfter_lt (d := .sample) hcs, State.cntAfter_lt (d := .pulse) hcp, State.phaseAfter_lt hphase,
    hd', hchan', hsub'.trans hsub, State.offAfter_reachable hoff, hacclen', hacc', hrlen', hr', hhlen', hh',
    hqlen', hq', State.vqAfter_ok hvq, State.magAfter_ok hvq hmag⟩

/-- A machine within its ranges ticks to the register view's next state. -/
theorem State.Ok.step_eq {s : State} (h : s.Ok) : step s = .next s.afterTick := by
  obtain ⟨-, -, -, -, hd, -, -, hoff, -⟩ := h
  exact step_eq_afterTick s hd hoff

/-- One tick keeps the ranges. -/
theorem State.Ok.afterTick {s : State} (h : s.Ok) : s.afterTick.Ok := ⟨h.1, State.regsAfter_ok h.2⟩

/-- Settles O9: the tick is the synchronous update, and that keeps each register within its values column. -/
theorem stepKeepsRegistersInRange : Obligations.StepKeepsRegistersInRange := by
  intro s t hs hstep
  obtain rfl : s.afterTick = t := Host.Outcome.next.inj (hs.step_eq.symm.trans hstep)
  exact ⟨hs.afterTick, rfl⟩

/-! ## Register ownership (R21) -/

/-- The registers `n` with those of block `b` taken from `m`. -/
def Regs.takeBlock (n m : Regs) : Block → Regs
  | .rdiv .sample => { n with cntSample := m.cntSample }
  | .rdiv .pulse => { n with cntPulse := m.cntPulse }
  | .nco => { n with phase := m.phase }
  | .dmx => { n with dstate := m.dstate, chan := m.chan, sub := m.sub }
  | .mux => { n with sel := m.sel, off := m.off }
  | .dsm => { n with acc := m.acc, r := m.r }
  | .seq => { n with seq := m.seq, h := m.h, q := m.q }
  | .vui => { n with vq := m.vq }
  | .vuo => { n with vq := m.vq, mag := m.mag }
  | .fb => n

/-- An operation that fires changes the registers of its own block and the ports, nothing else. -/
theorem exec_eq_takeBlock {i : Instr} {s t : State} (h : exec i s = .next t) :
    t = s.inTick (s.next.takeBlock t.next i.block) t.out := by
  cases i with
  | rdivReload d | rdivCount d =>
    obtain ⟨-, rfl⟩ := State.perform_next_iff.1 h
    cases d <;> rfl
  | dmxStart l f =>
    obtain ⟨-, rfl⟩ := State.perform_next_iff.1 h
    split <;> rfl
  | dmxMid =>
    obtain ⟨-, rfl⟩ := State.perform_next_iff.1 h
    split <;> rfl
  | ncoAdvance | ncoHold | dmxHold | dmxLast | dmxViolate | dmxResync | muxHold | muxByte | muxWrap | dsmHold | dsmMod
  | dsmUpdate | dsmModupd | seqWait | seqFire | seqRead | seqLatch | vuPush | vuReject | vuNopush | vuPop | vuStarve
  | vuKeep | fbRead =>
    obtain ⟨-, rfl⟩ := State.perform_next_iff.1 h
    rfl

/-- Settles O11: what a block does not own, taking over its registers leaves alone. -/
theorem operationsOwnTheirRegisters : Obligations.OperationsOwnTheirRegisters := by
  intro i s t h
  rw [exec_eq_takeBlock h]
  generalize i.block = b
  refine ⟨⟨rfl, rfl, rfl, rfl⟩, ?_⟩
  cases b with
  | rdiv d => cases d <;> simp [Regs.takeBlock]
  | nco | dmx | mux | dsm | seq | vui | vuo | fb => simp [Regs.takeBlock]

/-! ## Construction (R345): what it demands and what it answers -/

/-- A check and what follows it answer a value exactly when both do. -/
theorem except_bind_eq_ok_iff {ε α β : Type} {x : Except ε α} {f : α → Except ε β} {b : β} :
    x >>= f = .ok b ↔ ∃ a, x = .ok a ∧ f a = .ok b := by
  cases x with
  | error e => simp [bind, Except.bind]
  | ok a => simp [bind, Except.bind]

theorem except_unit_bind_eq_ok_iff {ε β : Type} {x : Except ε Unit} {f : Unit → Except ε β} {b : β} :
    x >>= f = .ok b ↔ x = .ok () ∧ f () = .ok b :=
  except_bind_eq_ok_iff.trans ⟨fun ⟨(), h⟩ => h, fun h => ⟨(), h⟩⟩

theorem except_pure_eq_ok_iff {ε α : Type} {a b : α} : (pure a : Except ε α) = .ok b ↔ a = b := by
  simp [pure, Except.pure]

theorem demand_eq_ok_iff {ok : Bool} {e : ConfigError} : demand ok e = .ok () ↔ ok = true := by
  cases ok <;> simp [demand]

/-- The conditions of R304 that stand before the dividers. -/
theorem checkParams_eq_ok_iff {cfg : Config} {d : BitDepth} : checkParams cfg d = .ok () ↔
    2 ^ cfg.tableLength.log2 = cfg.tableLength ∧ (1 ≤ cfg.phiBits ∧ cfg.tableLength.log2 ≤ cfg.phiBits) ∧
    (0 ≤ cfg.gain ∧ cfg.gain ≤ 1) ∧ (1 ≤ cfg.channels ∧ (cfg.hasMux = true → cfg.channels = 2)) ∧
    1 ≤ cfg.segments ∧ 0 < cfg.masterHz ∧ 0 < cfg.sampleRateHz ∧ 0 < cfg.pulseRateHz ∧ 0 ≤ cfg.pulseMaxPpm ∧
    (cfg.fbShift = 16 ∨ cfg.fbShift = 17) ∧ cfg.fifoDepth = 16 ∧ cfg.phaseInit < 2 ^ cfg.phiBits ∧
    cfg.accInit.length = cfg.channels ∧ ∀ a ∈ cfg.accInit, a < 2 ^ (d.bits + 1) := by
  have hmux : (decide (1 ≤ cfg.channels) && (!cfg.hasMux || cfg.channels == 2)) = true ↔
      1 ≤ cfg.channels ∧ (cfg.hasMux = true → cfg.channels = 2) := by
    cases cfg.hasMux <;> simp
  rw [← firstBadAcc_eq_none_iff (c := 0)]
  simp only [checkParams, except_unit_bind_eq_ok_iff, demand_eq_ok_iff, hmux, decide_eq_true_eq]
  cases firstBadAcc d.bits 0 cfg.accInit <;> simp

/-- Construction answers constants exactly when every check of R345 passes, and then the constants that the
configuration describes. -/
theorem setupParams_eq_ok_iff {cfg : Config} {p : Params} : setupParams cfg = .ok p ↔
    ∃ d, checkDepth cfg = .ok d ∧ checkParams cfg d = .ok () ∧
      ∃ cs, cfgRdiv .sample cfg.masterHz cfg.sampleRateHz 0 = .ok cs ∧ (cfg.hasDac = true → 3 ≤ cs) ∧
        cfg.divInitSample < cs ∧
        ∃ cp, cfgRdiv .pulse cfg.masterHz cfg.pulseRateHz cfg.pulseMaxPpm = .ok cp ∧ cfg.divInitPulse < cp ∧
          requiredBytes cfg d ≤ cfg.maxPacketSize ∧ cfgFb cfg.sampleRateHz cfg.fbShift < 2 ^ 32 ∧
          paramsOf cfg d cs cp = p := by
  have hdac (cs : Nat) : (!cfg.hasDac || decide (3 ≤ cs)) = true ↔ (cfg.hasDac = true → 3 ≤ cs) := by
    cases cfg.hasDac <;> simp
  simp only [setupParams, except_bind_eq_ok_iff (x := checkDepth cfg), except_bind_eq_ok_iff (x := cfgRdiv ..),
    except_unit_bind_eq_ok_iff, demand_eq_ok_iff, hdac, decide_eq_true_eq, except_pure_eq_ok_iff]

theorem construct_eq_ok_iff {cfg : Config} {s : State} :
    construct cfg = .ok s ↔ ∃ p, setupParams cfg = .ok p ∧ State.initial p (resetRegs cfg p) = s := by
  simp only [construct, except_bind_eq_ok_iff, except_pure_eq_ok_iff]

/-! ### The values computed from the configuration -/

theorem BitDepth.subslot_pos (d : BitDepth) : 0 < d.subslot := by cases d <;> decide

theorem patternOf_lt (n : Nat) (v : Int) : patternOf n v < 2 ^ n := by
  have hpos : (0 : Int) < 2 ^ n := by positivity
  have hlt := Int.emod_lt_of_pos v hpos
  have hnonneg := Int.emod_nonneg v hpos.ne'
  have hcast : ((2 ^ n : Nat) : Int) = 2 ^ n := by push_cast; rfl
  unfold patternOf
  omega

/-- The search stays within its range, whatever it searches for. -/
theorem searchLargest_lt_add (ok : Nat → Bool) : ∀ n a, searchLargest ok n a < a + 2 ^ n
  | 0, a => by simp [searchLargest]
  | n + 1, a => by
    have hpow : 2 ^ (n + 1) = 2 ^ n + 2 ^ n := by ring
    have hpos := Nat.two_pow_pos n
    have hupper := searchLargest_lt_add ok n (a + 2 ^ n)
    have hlower := searchLargest_lt_add ok n a
    rw [searchLargest]
    split <;> omega

theorem searchLargest_zero_lt (ok : Nat → Bool) (n : Nat) : searchLargest ok n 0 < 2 ^ n := by
  simpa using searchLargest_lt_add ok n 0

theorem tableEntryUnsigned_lt (b k : Nat) (gain : Rat) (i : Nat) : tableEntryUnsigned b k gain i < 2 ^ b := by
  unfold tableEntryUnsigned
  dsimp only
  split
  · positivity
  · exact searchLargest_zero_lt _ b

theorem cfgTable_length (b k : Nat) (gain : Rat) (signed : Bool) : (cfgTable b k gain signed).length = 2 ^ k := by
  simp [cfgTable]

/-- R141: TABLE holds b-bit patterns. -/
theorem lt_of_mem_cfgTable {b k : Nat} {gain : Rat} {signed : Bool} {v : Nat} (h : v ∈ cfgTable b k gain signed) :
    v < 2 ^ b := by
  obtain ⟨i, -, rfl⟩ := List.mem_map.1 h
  split
  · exact patternOf_lt _ _
  · exact tableEntryUnsigned_lt _ _ _ _

/-- The condition of R258 on a candidate for `TH[s]`, `M = 2^(b-1) - 1`. -/
def thresholdFits (g b s t : Nat) : Bool := decide (t ^ g * g ^ (g - s) ≤ (2 ^ (b - 1) - 1) ^ g)

theorem threshold_eq (g b s : Nat) : threshold g b s = searchLargest (thresholdFits g b s) (b - 1) 0 := rfl

theorem thresholdFits_anti {g b s x y : Nat} (hxy : x ≤ y) (h : thresholdFits g b s y = true) :
    thresholdFits g b s x = true := by
  simp only [thresholdFits, decide_eq_true_eq] at h ⊢
  exact (Nat.mul_le_mul_right _ (Nat.pow_le_pow_left hxy g)).trans h

theorem thresholdFits_zero {g b s : Nat} (hg : 0 < g) : thresholdFits g b s 0 = true := by
  simp [thresholdFits, hg.ne']

/-- What fits the threshold of a segment fits that of every later segment. -/
theorem thresholdFits_mono {g b s s' t : Nat} (hg : 0 < g) (hs : s ≤ s') (h : thresholdFits g b s t = true) :
    thresholdFits g b s' t = true := by
  simp only [thresholdFits, decide_eq_true_eq] at h ⊢
  exact (Nat.mul_le_mul_left _ (Nat.pow_le_pow_right hg (Nat.sub_le_sub_left hs g))).trans h

theorem threshold_lt (g b s : Nat) : threshold g b s < 2 ^ (b - 1) :=
  threshold_eq g b s ▸ searchLargest_zero_lt _ _

theorem threshold_mono {g b s s' : Nat} (hg : 0 < g) (hs : s ≤ s') : threshold g b s ≤ threshold g b s' := by
  have hfits (s t : Nat) (ht : t < 2 ^ (b - 1)) : t ≤ threshold g b s ↔ thresholdFits g b s t = true := by
    rw [threshold_eq]
    exact le_searchLargest_iff _ (fun _ _ => thresholdFits_anti) _ (thresholdFits_zero hg) t ht
  rw [hfits s' _ (threshold_lt g b s)]
  exact thresholdFits_mono hg hs ((hfits s _ (threshold_lt g b s)).1 le_rfl)

theorem cfgLogscale_length (g b : Nat) : (cfgLogscale g b).length = g := by simp [cfgLogscale]

/-- R258: the thresholds do not decrease. -/
theorem cfgLogscale_pairwise {g b : Nat} (hg : 0 < g) : (cfgLogscale g b).Pairwise (· ≤ ·) :=
  List.pairwise_map.2 (List.pairwise_lt_range.imp fun h => threshold_mono hg h.le)

theorem lt_of_mem_cfgLogscale {g b t : Nat} (h : t ∈ cfgLogscale g b) : t < 2 ^ (b - 1) := by
  obtain ⟨s, -, rfl⟩ := List.mem_map.1 h
  exact threshold_lt g b s

/-! ### The machine right after construction -/

/-- The constants of a checked configuration are those that R42 assumes. -/
theorem paramsOf_ok {cfg : Config} {d : BitDepth} {cs cp : Nat} (hcheck : checkParams cfg d = .ok ())
    (hcs : 1 ≤ cs) (hcp : 1 ≤ cp) (hdac : cfg.hasDac = true → 3 ≤ cs) : (paramsOf cfg d cs cp).Ok := by
  obtain ⟨-, ⟨hphi, hindex⟩, -, ⟨hchannels, hmux⟩, hseg, -⟩ := checkParams_eq_ok_iff.1 hcheck
  exact ⟨hchannels, hphi, hindex, cfgTable_length .., fun _ => lt_of_mem_cfgTable, hseg, cfgLogscale_length ..,
    cfgLogscale_pairwise hseg, fun _ => lt_of_mem_cfgLogscale, hcs, hcp, hmux, hdac⟩

/-- The reset values of R341 are within the values column of R42. -/
theorem resetRegs_ok {cfg : Config} {d : BitDepth} {cs cp : Nat} (hcheck : checkParams cfg d = .ok ())
    (hcs : cfg.divInitSample < cs) (hcp : cfg.divInitPulse < cp) :
    (resetRegs cfg (paramsOf cfg d cs cp)).Ok (paramsOf cfg d cs cp) := by
  obtain ⟨-, -, -, ⟨hchannels, -⟩, -, -, -, -, -, -, -, hphase, hacclen, hacc⟩ := checkParams_eq_ok_iff.1 hcheck
  have hzero : ∀ v ∈ List.replicate cfg.channels 0, v < 2 ^ d.bits := fun v hv => by
    rw [List.eq_of_mem_replicate hv]
    positivity
  have hqueues : ∀ f ∈ List.replicate cfg.channels Fifo.reset, f.Ok d.bits := fun f hf => by
    rw [List.eq_of_mem_replicate hf]
    exact Fifo.reset_ok d.bits
  have hmag : (paramsOf cfg d cs cp).MagOk 0 := by
    unfold Params.MagOk
    split <;> positivity
  exact ⟨hcs, hcp, hphase, Params.dstateReachable_byte.2 d.subslot_pos, hchannels, List.length_replicate,
    decide_eq_true d.subslot_pos, hacclen, hacc, List.length_replicate, hzero, List.length_replicate, hzero,
    List.length_replicate, hqueues, Fifo.reset_ok d.bits, hmag⟩

/-- Settles O17: the checks of construction are what the ranges need. -/
theorem constructedMachinesAreInRange : Obligations.ConstructedMachinesAreInRange := by
  intro cfg s h
  obtain ⟨p, hp, rfl⟩ := construct_eq_ok_iff.1 h
  obtain ⟨d, -, hcheck, cs, -, hdac, hcs, cp, -, hcp, -, -, rfl⟩ := setupParams_eq_ok_iff.1 hp
  exact ⟨paramsOf_ok hcheck (Nat.zero_lt_of_lt hcs) (Nat.zero_lt_of_lt hcp) hdac, resetRegs_ok hcheck hcs hcp⟩

end Sys2Proof.Machine

namespace Sys2Proof.Machine


/-! ## One tick, in full (R70) -/

/-- Settles O7: the ranges of R42 keep `DSTATE` and `OFF` at codes that have a meaning, which is all that the blocks'
laws ask for. -/
theorem stepIsTheSynchronousUpdate : Obligations.StepIsTheSynchronousUpdate := fun _ hs => hs.step_eq

/-! ## The order of the blocks (R70 (a))

A tick in which some of the blocks have performed their operations is a state that depends on which blocks these are
and not on the order in which they did: the owned registers and the ports of these blocks are as the tick leaves them,
all others as it found them. -/

/-- `VQ` when the sides of the meter in `done` have had their turn. -/
def State.vqPartway (s : State) (done : Finset Block) : Fifo :=
  let popped := if .vuo ∈ done ∧ s.sampleTick then s.regs.vq.pop else s.regs.vq
  if .vui ∈ done ∧ s.inp.vuValid && !s.regs.vq.isFull then popped.append s.vuSample else popped

/-- The registers when the blocks in `done` have had their turn. -/
@[simp] def State.regsPartway (s : State) (done : Finset Block) : Regs where
  cntSample := if .rdiv .sample ∈ done then s.cntAfter .sample else s.regs.cntSample
  cntPulse := if .rdiv .pulse ∈ done then s.cntAfter .pulse else s.regs.cntPulse
  phase := if .nco ∈ done then s.phaseAfter else s.regs.phase
  dstate := if .dmx ∈ done then s.dmxRow.dstate else s.regs.dstate
  chan := if .dmx ∈ done then s.dmxRow.chan else s.regs.chan
  sub := if .dmx ∈ done then s.dmxRow.sub else s.regs.sub
  sel := if .mux ∈ done then s.selAfter else s.regs.sel
  off := if .mux ∈ done then s.offAfter else s.regs.off
  acc := if .dsm ∈ done then s.accAfter else s.regs.acc
  r := if .dsm ∈ done then s.rAfter else s.regs.r
  seq := if .seq ∈ done then s.seqAfter else s.regs.seq
  h := if .seq ∈ done then s.hAfter else s.regs.h
  q := if .seq ∈ done then s.regsBeforePush.q else s.regs.q
  vq := s.vqPartway done
  mag := if .vuo ∈ done then s.magAfter else s.regs.mag

/-- The ports when the blocks in `done` have had their turn. -/
@[simp] def State.outPartway (s : State) (done : Finset Block) : Outputs where
  pulseSample := if .rdiv .sample ∈ done then s.outDuring.pulseSample else false
  pulseMod := if .rdiv .pulse ∈ done then s.outDuring.pulseMod else false
  ncoValid := if .nco ∈ done then s.outDuring.ncoValid else false
  ncoSample := if .nco ∈ done then s.outDuring.ncoSample else 0
  dmxInReady := if .dmx ∈ done then s.outDuring.dmxInReady else false
  dmxConsumed := if .dmx ∈ done then s.outDuring.dmxConsumed else false
  dmxOutValid := if .dmx ∈ done then s.outDuring.dmxOutValid else []
  dmxOutSample := if .dmx ∈ done then s.outDuring.dmxOutSample else 0
  dmxHandoff := if .dmx ∈ done then s.outDuring.dmxHandoff else []
  framingError := if .dmx ∈ done then s.outDuring.framingError else false
  muxOutValid := if .mux ∈ done then s.outDuring.muxOutValid else false
  muxOutByte := if .mux ∈ done then s.outDuring.muxOutByte else 0
  muxSReady := if .mux ∈ done then s.outDuring.muxSReady else []
  muxHandoff := if .mux ∈ done then s.outDuring.muxHandoff else []
  dacOut := if .dsm ∈ done then s.outDuring.dacOut else []
  qReady := if .seq ∈ done then s.outDuring.qReady else []
  update := if .seq ∈ done then s.outDuring.update else false
  vuInReady := if .vui ∈ done then s.outDuring.vuInReady else false
  lit := if .vuo ∈ done then s.outDuring.lit else 0
  level := if .vuo ∈ done then s.outDuring.level else 0
  fbByte := if .fb ∈ done then s.outDuring.fbByte else 0

/-- The tick that begins at `s` when the blocks in `done` have had their turn. -/
def State.partway (s : State) (done : Finset Block) : State := s.inTick (s.regsPartway done) (s.outPartway done)

theorem State.partway_empty (s : State) : s.partway ∅ = s.beginTick := by
  simp [State.partway, State.vqPartway, State.beginTick]

theorem State.blocks_nodup (s : State) : s.blocks.Nodup := by
  unfold State.blocks
  cases s.par.hasMux <;> cases s.par.hasDac <;> decide

theorem State.hasMux_of_mem_blocks {s : State} (h : .mux ∈ s.blocks) : s.par.hasMux = true := by
  cases hmux : s.par.hasMux <;> simp [State.blocks, hmux] at h ⊢

theorem State.hasDac_of_mem_blocks {s : State} (h : .dsm ∈ s.blocks ∨ .seq ∈ s.blocks) : s.par.hasDac = true := by
  cases hdac : s.par.hasDac <;> simp [State.blocks, hdac] at h ⊢

@[simp] theorem State.vqPartway_insert_of_ne {s : State} {done : Finset Block} {b : Block} (hvui : b ≠ .vui)
    (hvuo : b ≠ .vuo) : s.vqPartway (insert b done) = s.vqPartway done := by
  simp [State.vqPartway, hvui.symm, hvuo.symm]

/-- The push of the input side, before or after the pop of the output side. -/
theorem State.vqPartway_insert_vui {s : State} {done : Finset Block} (h : .vui ∉ done) :
    s.vqPartway (insert .vui done) =
      if s.inp.vuValid && !s.regs.vq.isFull then (s.vqPartway done).append s.vuSample else s.vqPartway done := by
  simp [State.vqPartway, h]

/-- The pop of the output side, before or after the push of the input side: the one place where two blocks of a tick
write the same register (R67). -/
theorem State.vqPartway_insert_vuo {s : State} {done : Finset Block} (h : .vuo ∉ done) :
    s.vqPartway (insert .vuo done) =
      if s.sampleTick && !s.regs.vq.isEmpty then (s.vqPartway done).pop else s.vqPartway done := by
  by_cases hpushed : .vui ∈ done
  · have hboth := s.vqAfter_eq_push_then_pop
    simp only [State.vqAfter, ← Fifo.not_isFull] at hboth
    simpa [State.vqPartway, h, hpushed] using hboth.symm
  · cases hitems : s.regs.vq.items <;>
      simp [State.vqPartway, h, hpushed, Fifo.isEmpty, Fifo.pop, hitems]

/-- A block whose turn it is adds its own part to the tick, whatever other blocks have had theirs. -/
theorem runBlock_partway {s : State} {done : Finset Block} {b : Block}
    (hd : s.par.dstateReachable s.regs.dstate = true) (ho : s.par.offReachable s.regs.off = true)
    (hbuilt : b ∈ s.blocks) (hb : b ∉ done) :
    runBlock b (s.partway done) = .next (s.partway (insert b done)) := by
  unfold State.partway
  cases b with
  | rdiv d =>
    cases d with
    | sample =>
      refine (tick_sampleDivider ..).trans ?_
      simp [State.outDuring]
    | pulse =>
      refine (tick_pulseDivider ..).trans ?_
      simp [State.outDuring]
  | nco =>
    refine (tick_nco (keep := if_neg hb) ..).trans ?_
    simp [State.outDuring]
  | dmx =>
    refine (tick_dmx (h := hd) (keep1 := if_neg hb) (keep2 := if_neg hb) (keep3 := if_neg hb) ..).trans ?_
    simp [State.outDuring]
  | mux =>
    have hmux := State.hasMux_of_mem_blocks hbuilt
    refine (tick_mux (h := hmux) (ho := ho) (keep1 := if_neg hb) (keep2 := if_neg hb) ..).trans ?_
    simp [State.outDuring, hmux]
  | dsm =>
    have hdac := State.hasDac_of_mem_blocks (.inl hbuilt)
    refine (tick_dsm (h := hdac) (keep1 := if_neg hb) (keep2 := if_neg hb) ..).trans ?_
    simp [State.outDuring, hdac]
  | seq =>
    have hdac := State.hasDac_of_mem_blocks (.inr hbuilt)
    refine (tick_seq (h := hdac) (keep1 := if_neg hb) (keep2 := if_neg hb) (keep3 := if_neg hb) ..).trans ?_
    simp [State.outDuring, State.regsBeforePush, hdac, Fifo.not_isFull]
  | vui =>
    refine (tick_vui ..).trans ?_
    simp [State.vqPartway_insert_vui hb, State.outDuring, Fifo.not_isFull]
  | vuo =>
    refine (tick_vuo (keep := if_neg hb) ..).trans ?_
    simp [State.vqPartway_insert_vuo hb, State.outDuring]
  | fb =>
    refine (tick_fb ..).trans ?_
    simp [State.outDuring]

/-- Blocks that take their turns one after another leave the tick as the set of them says. -/
theorem runBlocks_partway {s : State} (hd : s.par.dstateReachable s.regs.dstate = true)
    (ho : s.par.offReachable s.regs.off = true) :
    ∀ {bs : List Block} {done : Finset Block}, bs.Nodup → (∀ b ∈ bs, b ∈ s.blocks ∧ b ∉ done) →
      runBlocks bs (s.partway done) = .next (s.partway (bs.toFinset ∪ done))
  | [], done, _, _ => by simp [runBlocks]
  | b :: bs, done, hnodup, hbs => by
    obtain ⟨hb, hrest⟩ := List.nodup_cons.1 hnodup
    obtain ⟨⟨hbuilt, hnew⟩, hbs'⟩ := List.forall_mem_cons.1 hbs
    rw [runBlocks_cons_of_next (runBlock_partway hd ho hbuilt hnew), runBlocks_partway hd ho hrest, List.toFinset_cons,
      Finset.insert_union, Finset.union_insert]
    intro x hx
    obtain ⟨hxbuilt, hxnew⟩ := hbs' x hx
    have hne : x ≠ b := fun h => hb (h ▸ hx)
    exact ⟨hxbuilt, by simp [hne, hxnew]⟩

/-- Settles O8: two orders of the blocks have the same set of them. -/
theorem blockOrderIsImmaterial : Obligations.BlockOrderIsImmaterial := by
  intro s order hs hperm
  obtain ⟨-, -, -, -, hd, -, -, hoff, -⟩ := hs
  have hrun {bs : List Block} (h : bs.Perm s.blocks) :
      runBlocks bs s.beginTick = .next (s.partway s.blocks.toFinset) := by
    rw [← s.partway_empty, runBlocks_partway hd hoff (h.nodup_iff.2 s.blocks_nodup), List.toFinset_eq_of_perm _ _ h,
      Finset.union_empty]
    exact fun b hb => ⟨h.mem_iff.1 hb, Finset.notMem_empty b⟩
  rw [hrun hperm, hrun (List.Perm.refl _)]


/-! ## A tick runs the selected operations (R70, R100) -/

/-- A word of R109 (d) aside, decoding undoes encoding. -/
theorem decode_encode {i : Instr} (h : i.wellFormed = true) : decode i.block i.encode = .ok i := by
  cases i with
  | rdivReload d | rdivCount d => cases d <;> rfl
  | dmxHold e l k f => revert h; revert e l k f; decide
  | dmxResync l k f => revert h; revert l k f; decide
  | dmxStart l f => revert l f; decide
  | dmxViolate b | muxHold b | seqRead b | seqLatch b | vuNopush b | vuKeep b => cases b <;> rfl
  | fbRead i => revert i; decide
  | ncoAdvance | ncoHold | dmxMid | dmxLast | muxByte | muxWrap | dsmHold | dsmMod | dsmUpdate | dsmModupd | seqWait
  | seqFire | vuPush | vuReject | vuPop | vuStarve => rfl

/-- An operation that its block's control word selects answers a next state. -/
theorem exec_next_of_selected {i : Instr} {s : State} (h : s.controlWord i.block = some i.encode) :
    ∃ t, exec i s = .next t := by
  cases i <;> exact ⟨_, State.perform_of_selected h⟩

/-- Inside the tick that begins at `s`, the operations that the control words of `s` select run to the end, and they
are what their blocks perform. -/
theorem execAll_eq_runBlocks {s : State} : ∀ {ops : List Instr},
    (∀ i ∈ ops, i.wellFormed = true ∧ s.controlWord i.block = some i.encode) → ∀ (n : Regs) (o : Outputs),
    ∃ t, execAll ops (s.inTick n o) = .next t ∧ runBlocks (ops.map Instr.block) (s.inTick n o) = .next t
  | [], _, _, _ => ⟨_, rfl, rfl⟩
  | i :: ops, h, n, o => by
    obtain ⟨⟨hwf, hword⟩, hrest⟩ := List.forall_mem_cons.1 h
    have hselected : (s.inTick n o).controlWord i.block = some i.encode := hword
    obtain ⟨u, hu⟩ := exec_next_of_selected hselected
    have hblock : runBlock i.block (s.inTick n o) = .next u :=
      (runBlock_of_fetch hselected (decode_encode hwf)).trans hu
    rw [List.map_cons, runBlocks_cons_of_next hblock, execAll, hu, exec_eq_takeBlock hu]
    exact execAll_eq_runBlocks hrest _ _

/-- Settles O6: an operation that fires leaves the registers before the tick and the inputs alone, so the control words
select the next operation too. -/
theorem stepRunsTheSelectedOperations : Obligations.StepRunsTheSelectedOperations := by
  intro s ops hblocks hops
  obtain ⟨t, hexec, hrun⟩ := execAll_eq_runBlocks hops s.regs {}
  exact ⟨t, hexec, by rw [step, ← hblocks, State.beginTick_eq_inTick, hrun]⟩

/-! ## A push and a pop in one tick (R67) -/

/-- What a FIFO holds after a tick that pops it and offers it a sample: the pop comes first, and the push is judged on
the occupancy before the tick. -/
theorem Fifo.push_behind_pop {q q' : Fifo} {v : Pattern}
    (h : q' = if q.items.length ≠ 16 then q.pop.append v else q.pop) :
    (0 < q.items.length → q.items.length < 16 →
      q'.items = q.items.tail ++ [v] ∧ q.items.head? = some q'.last) ∧
    (q.items.length = 16 → q'.items = q.items.tail ∧ q.items.head? = some q'.last) ∧
    (q.items.length = 0 → q'.items = [v] ∧ q'.last = q.last) := by
  obtain ⟨items, last⟩ := q
  cases items with
  | nil => simp [h]
  | cons x xs =>
    refine ⟨fun _ hroom => ?_, fun hfull => ?_, fun hempty => by cases hempty⟩
    · rw [h, if_pos hroom.ne]
      exact ⟨rfl, rfl⟩
    · rw [h, if_neg (not_not.2 hfull)]
      exact ⟨rfl, rfl⟩

theorem State.qOf_afterTick {s : State} {c : Nat} (hdac : s.par.hasDac = true) (hc : c < s.par.channels) :
    s.afterTick.qOf c =
      if s.qValid c && decide ((s.qOf c).items.length ≠ 16) then
        (if s.reading then (s.qOf c).pop else s.qOf c).append (s.qSample c)
      else if s.reading then (s.qOf c).pop else s.qOf c := by
  unfold State.qOf State.afterTick State.regsAfter State.qAfter
  simp only [hdac, if_true]
  exact s.perChannel_getD _ _ hc

/-- Settles O52: both kinds of queue do what `Fifo.push_behind_pop` says. -/
theorem pushAndPopInOneTick : Obligations.PushAndPopInOneTick := by
  intro s t hs hstep
  obtain rfl : s.afterTick = t := Host.Outcome.next.inj (hs.step_eq.symm.trans hstep)
  refine ⟨fun htick hvalid => Fifo.push_behind_pop ?_, fun c hc hdac hseq hvalid => Fifo.push_behind_pop ?_⟩
  · simp [State.afterTick, State.regsAfter, State.vqAfter, htick, hvalid]
  · simp [State.qOf_afterTick hdac hc, State.reading, hdac, hseq, hvalid]

/-! ## The oscillator's output function (R143 to R145) -/

/-- A single entry read from TABLE, the index modulo N (R62). -/
theorem getElem?_eq_some_memRead {table : List Nat} (hne : 0 < table.length) (addr : Nat) :
    table[addr % table.length]? = some ((memRead table addr 1).headD 0) := by
  have hlt : addr % table.length < table.length := Nat.mod_lt _ hne
  simp [memRead, hlt]

theorem add_one_mod_eq {n i : Nat} (h : i < n) : (i + 1) % n = if i + 1 = n then 0 else i + 1 := by
  split
  · next hlast => rw [hlast, Nat.mod_self]
  · exact Nat.mod_eq_of_lt (by omega)

/-- The top INDEX_BITS bits of a phase are an index of TABLE (R99). -/
theorem phase_div_lt_tableLength {p : Params} {phase : Pattern} (hbits : p.indexBits ≤ p.phiBits)
    (hphase : phase < 2 ^ p.phiBits) : phase / 2 ^ (p.phiBits - p.indexBits) < 2 ^ p.indexBits := by
  apply Nat.div_lt_of_lt_mul
  rwa [← pow_add, Nat.sub_add_cancel hbits]

theorem signedVal_bounds {n v : Nat} (hn : 0 < n) (hv : v < 2 ^ n) :
    -2 ^ (n - 1) ≤ signedVal n v ∧ signedVal n v < 2 ^ (n - 1) := by
  have hpow := mul_pow_sub_one hn.ne' (2 : Int)
  zify at hv
  unfold signedVal
  split
  · next hpos =>
    zify at hpos
    omega
  · next hneg =>
    zify at hneg
    omega

/-- A pattern of n bits reads back as the number it was made of, when that has n bits as a signed number (R10). -/
theorem signedVal_patternOf {n : Nat} {x : Int} (hn : 0 < n) (hlow : -2 ^ (n - 1) ≤ x) (hhigh : x < 2 ^ (n - 1)) :
    signedVal n (patternOf n x) = x := by
  have hpow := mul_pow_sub_one hn.ne' (2 : Int)
  have hcast : ((2 ^ (n - 1) : Nat) : Int) = 2 ^ (n - 1) := by push_cast; rfl
  unfold signedVal patternOf
  rcases lt_or_ge x 0 with hneg | hpos
  · have hmod : x % 2 ^ n = x + 2 ^ n :=
      (Int.add_emod_right x _).symm.trans (Int.emod_eq_of_lt (by omega) (by omega))
    rw [hmod, if_neg (by omega)]
    omega
  · have hmod : x % 2 ^ n = x := Int.emod_eq_of_lt hpos (by omega)
    rw [hmod, if_pos (by omega)]
    omega

theorem mean_lt {p : Params} {a b : Nat} (ha : a < 2 ^ p.bits) (hb : b < 2 ^ p.bits) : mean p a b < 2 ^ p.bits := by
  unfold mean
  split
  · exact patternOf_lt _ _
  · exact Nat.div_lt_of_lt_mul (show a + b < 2 * 2 ^ p.bits by omega)

/-- R145: the mean of signed samples is the floor of half their exact sum. -/
theorem signedVal_mean {p : Params} {a b : Pattern} (hsigned : p.signed = true) (ha : a < 2 ^ p.bits)
    (hb : b < 2 ^ p.bits) :
    signedVal p.bits (mean p a b) = ⌊((signedVal p.bits a + signedVal p.bits b : Int) : ℚ) / 2⌋ := by
  obtain ⟨halow, hahigh⟩ := signedVal_bounds p.bits_pos ha
  obtain ⟨hblow, hbhigh⟩ := signedVal_bounds p.bits_pos hb
  have hfloor : ⌊((signedVal p.bits a + signedVal p.bits b : Int) : ℚ) / 2⌋ =
      (signedVal p.bits a + signedVal p.bits b) / 2 := Rat.floor_intCast_div_natCast _ 2
  rw [hfloor, mean, if_pos hsigned]
  exact signedVal_patternOf p.bits_pos (by omega) (by omega)

/-- The two entries that the oscillator's output is the mean of: the one at the phase's index and the next, the last
one's next being the first (R143, R144). -/
theorem exists_ncoOutput_eq_mean {p : Params} {phase idx : Nat} (hlen : p.table.length = p.tableLength)
    (hidx : idx = phase / 2 ^ (p.phiBits - p.indexBits)) (hlt : idx < 2 ^ p.indexBits) :
    ∃ a b, p.table[idx]? = some a ∧ p.table[if idx + 1 = 2 ^ p.indexBits then 0 else idx + 1]? = some b ∧
      ncoOutput p phase = mean p a b := by
  have hpos : 0 < p.table.length := by
    rw [hlen]
    exact Nat.two_pow_pos _
  have hread := getElem?_eq_some_memRead hpos
  have htable : tableIndex p phase = idx := hidx ▸ Nat.mod_eq_of_lt (hidx ▸ hlt)
  have hfirst := hread idx
  have hsecond := hread (idx + 1)
  rw [hlen, Params.tableLength, Nat.mod_eq_of_lt hlt] at hfirst
  rw [hlen, Params.tableLength, add_one_mod_eq hlt] at hsecond
  exact ⟨_, _, hfirst, hsecond, by rw [ncoOutput, htable]⟩

/-- Settles O28, by what the mean of two b-bit samples is. -/
theorem outputIsFloorOfMeanOfTwoEntries : Obligations.OutputIsFloorOfMeanOfTwoEntries := by
  intro p phase hp hphase
  obtain ⟨-, -, hbits, hlen, hentries, -⟩ := hp
  have hlt := phase_div_lt_tableLength hbits hphase
  obtain ⟨a, b, ha, hb, hmean⟩ := exists_ncoOutput_eq_mean hlen rfl hlt
  have halt := hentries a (List.mem_of_getElem? ha)
  have hblt := hentries b (List.mem_of_getElem? hb)
  refine ⟨_, rfl, hlt, a, b, ha, hb, ?_⟩
  rw [hmean]
  exact ⟨mean_lt halt hblt, fun hsigned => signedVal_mean hsigned halt hblt,
    fun hunsigned => by simp [mean, hunsigned]⟩

end Sys2Proof.Machine

namespace Sys2Proof.Machine

/-! ## Control words and operations (R100 to R109) -/

/-! ### The words that no operation has (R109 (d)) -/

theorem decodeDmx_eq_error_iff {e l k g f : Bool} {x : DecodeError} :
    decodeDmx e l k g f = .error x ↔ .errorAndByteState = x ∧ e = true ∧ (l = true ∨ k = true) := by
  unfold decodeDmx
  split
  · next hbad => simp_all
  · next hgood => split_ifs <;> simp_all

theorem decodeSeq_eq_error_iff {q1 q0 t : Bool} {x : DecodeError} :
    decodeSeq q1 q0 t = .error x ↔ .seqStateThree = x ∧ q1 = true ∧ q0 = true := by
  unfold decodeSeq
  split <;> simp

/-- The stored sequencer state 3 is the words 6 and 7 of format SEQ (R106). -/
theorem seqState_three_iff : ∀ w : CtrlWord, w.toNat < 8 →
    ((w.getLsbD 2 = true ∧ w.getLsbD 1 = true) ↔ w.toNat = 6 ∨ w.toNat = 7) := by decide

/-- The three refusals of the decoder, and the words that each of them is for. -/
theorem decode_eq_error_iff {b : Block} {w : CtrlWord} {x : DecodeError} :
    decode b w = .error x ↔
      .tooWide = x ∧ 2 ^ b.width ≤ w.toNat ∨
      .errorAndByteState = x ∧ b = .dmx ∧ w.getLsbD 4 = true ∧ (w.getLsbD 3 = true ∨ w.getLsbD 2 = true) ∨
      .seqStateThree = x ∧ b = .seq ∧ (w.toNat = 6 ∨ w.toNat = 7) := by
  unfold decode
  split
  · next hwide =>
    have hdmx : b ≠ .dmx := by
      rintro rfl
      exact absurd w.isLt (Nat.not_lt.2 hwide)
    have hseq : ¬ (b = .seq ∧ (w.toNat = 6 ∨ w.toNat = 7)) := by
      rintro ⟨rfl, hw⟩
      have hbound : 8 ≤ w.toNat := hwide
      omega
    simp [hwide, hdmx, hseq]
  · next hfits =>
    cases b with
    | dmx => simp [decodeDmx_eq_error_iff, hfits]
    | seq =>
      rw [decodeSeq_eq_error_iff, seqState_three_iff w (Nat.not_le.1 hfits)]
      simp [hfits]
    | _ => simp [hfits]

/-- Settles O3: each refusal picks its line of `decode_eq_error_iff`. -/
theorem unreachableWordsAreRefused : Obligations.UnreachableWordsAreRefused :=
  ⟨fun w => by simp [decode_eq_error_iff], fun w => by simp [decode_eq_error_iff],
    fun b w => by simp [decode_eq_error_iff]⟩

/-! ### Decoding is sound -/

/-- A word that fits a format of `n` bits is its `n` low bits, most significant first. -/
theorem packBits_getLsbD : ∀ w : CtrlWord, ∀ n ≤ 5, w.toNat < 2 ^ n →
    packBits ((List.range n).reverse.map w.getLsbD) = w := by decide

/-- The operation is one that the bits name in the block, the words of R109 (d) aside. -/
abbrev NamedBy (b : Block) (bits : List Bool) (i : Instr) : Prop :=
  i.block = b ∧ i.wellFormed = true ∧ i.encode = packBits bits

theorem decodeDmx_sound {e l k g f : Bool} {i : Instr} (h : decodeDmx e l k g f = .ok i) :
    NamedBy .dmx [e, l, k, g, f] i := by
  unfold decodeDmx at h
  split_ifs at h with hbad <;> cases h
  · exact ⟨rfl, by simpa [Instr.wellFormed, imp_iff_not_or] using hbad, by simp_all [Instr.encode]⟩
  all_goals simp_all [NamedBy, Instr.block, Instr.wellFormed, Instr.encode]

theorem decodeSeq_sound {q1 q0 t : Bool} {i : Instr} (h : decodeSeq q1 q0 t = .ok i) :
    NamedBy .seq [q1, q0, t] i := by
  unfold decodeSeq at h
  split at h <;> cases h
  · cases t <;> exact ⟨rfl, rfl, rfl⟩
  · exact ⟨rfl, rfl, rfl⟩
  · exact ⟨rfl, rfl, rfl⟩

theorem decodeMux_sound (r l : Bool) : NamedBy .mux [r, l] (decodeMux r l) := by
  cases r <;> cases l <;> exact ⟨rfl, rfl, rfl⟩

theorem decodeDsm_sound (u s : Bool) : NamedBy .dsm [u, s] (decodeDsm u s) := by
  cases u <;> cases s <;> exact ⟨rfl, rfl, rfl⟩

theorem decodeVui_sound (v n : Bool) : NamedBy .vui [v, n] (decodeVui v n) := by
  cases v <;> cases n <;> exact ⟨rfl, rfl, rfl⟩

theorem decodeVuo_sound (t m : Bool) : NamedBy .vuo [t, m] (decodeVuo t m) := by
  cases t <;> cases m <;> exact ⟨rfl, rfl, rfl⟩

theorem fbRead_sound (w : CtrlWord) : NamedBy .fb [w.getLsbD 1, w.getLsbD 0] (.fbRead (BitVec.ofNat 2 w.toNat)) :=
  ⟨rfl, rfl, by simp [Instr.encode]⟩

theorem blockWidth_le_five (b : Block) : b.width ≤ 5 := by
  cases b <;> simp [Block.width]

theorem decode_sound {b : Block} {w : CtrlWord} {i : Instr} (h : decode b w = .ok i) :
    i.block = b ∧ i.wellFormed = true ∧ i.encode = w := by
  unfold decode at h
  split at h
  · cases h
  · next hfits =>
    have hbits := packBits_getLsbD w b.width (blockWidth_le_five b) (Nat.not_le.1 hfits)
    suffices hnamed : NamedBy b ((List.range b.width).reverse.map w.getLsbD) i from hbits ▸ hnamed
    cases b with
    | dmx => exact decodeDmx_sound h
    | seq => exact decodeSeq_sound h
    | rdiv d =>
      cases h
      show NamedBy _ [w.getLsbD 0] _
      cases w.getLsbD 0 <;> exact ⟨rfl, rfl, rfl⟩
    | nco =>
      cases h
      show NamedBy _ [w.getLsbD 0] _
      cases w.getLsbD 0 <;> exact ⟨rfl, rfl, rfl⟩
    | mux => cases h; exact decodeMux_sound ..
    | dsm => cases h; exact decodeDsm_sound ..
    | vui => cases h; exact decodeVui_sound ..
    | vuo => cases h; exact decodeVuo_sound ..
    | fb => cases h; exact fbRead_sound w

/-- Settles O1: `decode_sound` one way, `decode_encode` the other. -/
theorem decodeExactlyInvertsEncode : Obligations.DecodeExactlyInvertsEncode := by
  intro b w i
  constructor
  · exact decode_sound
  · rintro ⟨rfl, hwf, rfl⟩
    exact decode_encode hwf

/-! ### The rows of the opcode table (R100) -/

/-- The `match` and `mask` columns of a block's rows, in the order of the table. -/
def rowsOf : Block → List (CtrlWord × CtrlWord)
  | .rdiv _ | .nco => [(0x01, 0x01), (0x00, 0x01)]
  | .dmx => [(0x00, 0x02), (0x06, 0x16), (0x02, 0x1F), (0x0A, 0x1F), (0x03, 0x17), (0x12, 0x12)]
  | .mux | .vui | .vuo => [(0x00, 0x02), (0x02, 0x03), (0x03, 0x03)]
  | .dsm => [(0x00, 0x03), (0x01, 0x03), (0x02, 0x03), (0x03, 0x03)]
  | .seq => [(0x00, 0x07), (0x01, 0x07), (0x02, 0x06), (0x04, 0x06)]
  | .fb => [(0x00, 0x00)]

theorem tableRow_mem_rowsOf (i : Instr) : i.tableRow ∈ rowsOf i.block := by
  cases i <;> simp [Instr.tableRow, rowsOf, Instr.block]

/-- The matches of two rows differ on a bit that both masks look at. -/
abbrev RowsDisagree (x y : CtrlWord × CtrlWord) : Prop := x.1 &&& y.2 ≠ y.1 &&& x.2

theorem rowsOf_pairwise_disagree (b : Block) : (rowsOf b).Pairwise RowsDisagree := by
  cases b with
  | rdiv d => cases d <;> decide
  | _ => decide

/-- A word fits at most one row of a block: rows that it fits agree on the bits that both masks look at. -/
theorem tableRow_eq_of_matchesRow {i j : Instr} {w : CtrlWord} (hblock : j.block = i.block)
    (hj : j.matchesRow w = true) (hi : i.matchesRow w = true) : j.tableRow = i.tableRow := by
  by_contra hne
  have hsymm : Std.Symm RowsDisagree := ⟨fun _ _ => Ne.symm⟩
  refine (rowsOf_pairwise_disagree i.block).forall (hblock ▸ tableRow_mem_rowsOf j) (tableRow_mem_rowsOf i) hne ?_
  simp only [Instr.matchesRow, beq_iff_eq] at hi hj
  calc
    j.tableRow.1 &&& i.tableRow.2 = w &&& j.tableRow.2 &&& i.tableRow.2 := by rw [hj]
    _ = w &&& i.tableRow.2 &&& j.tableRow.2 := by ac_rfl
    _ = i.tableRow.1 &&& j.tableRow.2 := by rw [hi]

open Sys2Proof.Laws in
theorem matchesRow_encode (i : Instr) : i.matchesRow i.encode = true :=
  match i with
  | .rdivReload d => (MatchesItsRow.rdivReload d).1
  | .rdivCount d => (MatchesItsRow.rdivCount d).1
  | .ncoAdvance => MatchesItsRow.ncoAdvance.1
  | .ncoHold => MatchesItsRow.ncoHold.1
  | .dmxHold e l k f => (MatchesItsRow.dmxHold e l k f).1
  | .dmxStart l f => (MatchesItsRow.dmxStart l f).1
  | .dmxMid => MatchesItsRow.dmxMid.1
  | .dmxLast => MatchesItsRow.dmxLast.1
  | .dmxViolate l => (MatchesItsRow.dmxViolate l).1
  | .dmxResync l k f => (MatchesItsRow.dmxResync l k f).1
  | .muxHold l => (MatchesItsRow.muxHold l).1
  | .muxByte => MatchesItsRow.muxByte.1
  | .muxWrap => MatchesItsRow.muxWrap.1
  | .dsmHold => MatchesItsRow.dsmHold.1
  | .dsmMod => MatchesItsRow.dsmMod.1
  | .dsmUpdate => MatchesItsRow.dsmUpdate.1
  | .dsmModupd => MatchesItsRow.dsmModupd.1
  | .seqWait => MatchesItsRow.seqWait.1
  | .seqFire => MatchesItsRow.seqFire.1
  | .seqRead t => (MatchesItsRow.seqRead t).1
  | .seqLatch t => (MatchesItsRow.seqLatch t).1
  | .vuPush => MatchesItsRow.vuPush.1
  | .vuReject => MatchesItsRow.vuReject.1
  | .vuNopush n => (MatchesItsRow.vuNopush n).1
  | .vuPop => MatchesItsRow.vuPop.1
  | .vuStarve => MatchesItsRow.vuStarve.1
  | .vuKeep m => (MatchesItsRow.vuKeep m).1
  | .fbRead k => (MatchesItsRow.fbRead k).1

/-- Settles O2: a word that the decoder does not refuse encodes an operation, so it fits that operation's row, and no
second row of the block. -/
theorem opcodeTableSelectsOneRow : Obligations.OpcodeTableSelectsOneRow := by
  intro b w hfits hdmx hseq
  cases hdecode : decode b w with
  | error x =>
    rcases decode_eq_error_iff.1 hdecode with ⟨-, hwide⟩ | ⟨-, hbad⟩ | ⟨-, hb, hthree⟩
    · exact absurd hfits (Nat.not_lt.2 hwide)
    · exact absurd hbad hdmx
    · exact absurd ⟨hb, by omega⟩ hseq
  | ok i =>
    obtain ⟨rfl, -, rfl⟩ := decode_sound hdecode
    refine ⟨i, rfl, rfl, fun j hj => ⟨fun hmatch => ?_, fun hrow => ?_⟩⟩
    · exact tableRow_eq_of_matchesRow hj hmatch (matchesRow_encode i)
    · rw [Instr.matchesRow, hrow]
      exact matchesRow_encode i

/-! ### Refused operations and ticks -/

/-- Every operation's meaning is what it answers when it fires. -/
theorem exec_eq_perform (i : Instr) (s : State) : ∃ t, exec i s = s.perform i t := by
  cases i <;> exact ⟨_, rfl⟩

/-- Settles O12, for all operations at once. -/
theorem operationNotSelectedIsRefused : Obligations.OperationNotSelectedIsRefused := by
  intro i s h
  obtain ⟨t, ht⟩ := exec_eq_perform i s
  rw [ht, State.perform, if_neg h]

theorem runBlock_of_controlWord_eq_none {b : Block} {s : State} (h : s.controlWord b = none) :
    runBlock b s = .refused (.unreachableCode b) := by
  simp [runBlock, State.fetch, h]

/-- A tick in which a block meets a code without a meaning, after blocks that answer, is refused. -/
theorem step_refused_of_controlWord_eq_none {s t : State} {b : Block} {as bs : List Block}
    (hblocks : s.blocks = as ++ b :: bs) (hbefore : runBlocks as s.beginTick = .next t) (h : t.controlWord b = none) :
    step s = .refused (.unreachableCode b) := by
  have hrun : runBlocks s.blocks s.beginTick = .refused (.unreachableCode b) := by
    rw [hblocks, runBlocks_append_of_next hbefore, runBlocks, runBlock_of_controlWord_eq_none h]
  rw [step, hrun]

/-- Settles O13: the demultiplexer's turn comes after the dividers' and the oscillator's, the multiplexer's after the
demultiplexer's. -/
theorem unreachableCodesAreRefused : Obligations.UnreachableCodesAreRefused := by
  refine ⟨fun s hd => ?_, fun s hd hmux ho => ?_⟩
  · have hbefore : ∃ n o, runBlocks [.rdiv .sample, .rdiv .pulse, .nco] s.beginTick = .next (s.inTick n o) := by
      rw [State.beginTick_eq_inTick, runBlocks_cons_of_next (tick_sampleDivider ..),
        runBlocks_cons_of_next (tick_pulseDivider ..), runBlocks_cons_of_next (tick_nco (keep := rfl) ..)]
      exact ⟨_, _, rfl⟩
    obtain ⟨n, o, hbefore⟩ := hbefore
    exact step_refused_of_controlWord_eq_none (List.append_assoc ..) hbefore (if_neg (by simp [hd]))
  · refine step_refused_of_controlWord_eq_none (bs := (if s.par.hasDac then [.dsm, .seq] else []) ++ [.vui, .vuo, .fb])
      ?_ (runBlocks_front s hd) (if_neg (by simp [ho]))
    simp [State.blocks, hmux]

/-! ## The operations that can fire (R103, R109, R175, R183, R205) -/

/-- A block performs an operation exactly when the operation is the block's, has a meaning and is encoded as the
block's control word. -/
theorem State.fetch_eq_ok_iff {s : State} {b : Block} {i : Instr} :
    s.fetch b = .ok i ↔ i.block = b ∧ i.wellFormed = true ∧ s.controlWord b = some i.encode := by
  unfold State.fetch
  cases s.controlWord b with
  | none => simp
  | some w =>
    rw [Option.some_inj, eq_comm (a := w), ← decodeExactlyInvertsEncode b w i]
    cases hw : decode b w <;> simp [hw]

/-! ### What fires exists -/

theorem decode_dmx_packBits (e l k g f : Bool) : decode .dmx (packBits [e, l, k, g, f]) = decodeDmx e l k g f := by
  revert e l k g f
  decide

theorem decode_mux_packBits (r l : Bool) : decode .mux (packBits [r, l]) = .ok (decodeMux r l) := by
  revert r l
  decide

/-- The sizes at which a byte position, the last one (`l`) or the first (`k`) or both, exists (R103). -/
theorem existsAt_dmxHold_byte {size : Nat} {l k f : Bool} :
    (Instr.dmxHold false l k f).existsAt size = true ↔
      if l then (if k then size = 1 else 1 < size) else if k then 1 < size else 2 < size := by
  cases l <;> cases k <;> simp [Instr.existsAt]

/-- Whether a demultiplexer operation exists depends on the position that its control word tells of, as it does for
DMX.HOLD. -/
theorem existsAt_of_decodeDmx {size : Nat} {e l k g f : Bool} {i : Instr} (hsize : 0 < size)
    (h : decodeDmx e l k g f = .ok i) :
    i.existsAt size = true ↔ (Instr.dmxHold e l k f).existsAt size = true := by
  unfold decodeDmx at h
  split_ifs at h with hbad hg he hk hf hl <;> cases h
  · exact Iff.rfl
  · subst he
    exact Iff.rfl
  all_goals rw [Bool.eq_false_of_not_eq_true he, existsAt_dmxHold_byte]
  · have hone : size ≠ 1 ↔ 1 < size := by omega
    cases l <;> simp [Instr.existsAt, hk, hone]
  · have htwo : 1 < size ∧ 2 < size ↔ 2 < size := by omega
    cases l <;> simp [Instr.existsAt, hk, htwo]
  · simp [Instr.existsAt, hk, hl]
  · simp [Instr.existsAt, hk, hl]

theorem existsAt_decodeMux {size : Nat} {r l : Bool} (h : l = true ∨ 1 < size) :
    (decodeMux r l).existsAt size = true := by
  cases r <;> cases l <;> simp_all [decodeMux, Instr.existsAt]

theorem existsAt_of_block {i : Instr} (size : Nat) (hdmx : i.block ≠ .dmx) (hmux : i.block ≠ .mux) :
    i.existsAt size = true := by
  cases i with
  | dmxHold _ _ _ _ | dmxStart _ _ | dmxMid | dmxLast | dmxViolate _ | dmxResync _ _ _ => exact absurd rfl hdmx
  | muxHold _ | muxByte => exact absurd rfl hmux
  | _ => rfl

theorem State.atByte_of_byte {s : State} {k : Fin 4} (h : s.regs.dstate = .byte k) (n : Nat) :
    s.atByte n = (k.val == n) := by
  simp [State.atByte, h]

theorem State.atByte_of_error {s : State} (h : s.regs.dstate = .error) (n : Nat) : s.atByte n = false := by
  simp [State.atByte, h]

/-- A reachable `DSTATE` is a position that exists for the subframe size. -/
theorem existsAt_of_position {s : State} (hd : s.par.dstateReachable s.regs.dstate = true) (f : Bool) :
    (Instr.dmxHold s.inError (s.atByte (s.par.subslot - 1)) (s.atByte 0) f).existsAt s.par.subslot = true := by
  cases hst : s.regs.dstate with
  | error =>
    rw [hst, Params.dstateReachable_error] at hd
    simp [State.inError, hst, Instr.existsAt, hd]
  | byte k =>
    rw [hst, Params.dstateReachable_byte] at hd
    rw [State.atByte_of_byte hst, State.atByte_of_byte hst, show s.inError = false by simp [State.inError, hst],
      existsAt_dmxHold_byte]
    simp only [beq_iff_eq]
    split_ifs <;> omega

/-- An offset within the subframe that is not the last one needs two bytes. -/
theorem State.atLastOffset_or_one_lt {s : State} (ho : s.par.offReachable s.regs.off = true) :
    s.atLastOffset = true ∨ 1 < s.par.subslot := by
  simp only [Params.offReachable, decide_eq_true_eq] at ho
  simp only [State.atLastOffset, beq_iff_eq]
  omega

/-- An operation that its block performs exists for the subframe size. -/
theorem existsAt_of_fetch {s : State} {b : Block} {i : Instr} (h : s.fetch b = .ok i) :
    i.existsAt s.par.subslot = true := by
  obtain ⟨hblock, hwf, hword⟩ := State.fetch_eq_ok_iff.1 h
  have hdecode := (decodeExactlyInvertsEncode b i.encode i).2 ⟨hblock, hwf, rfl⟩
  cases b with
  | dmx =>
    obtain ⟨hd, hbits⟩ := Option.ite_none_right_eq_some.1 hword
    rw [← Option.some_inj.1 hbits, decode_dmx_packBits] at hdecode
    exact (existsAt_of_decodeDmx s.par.depth.subslot_pos hdecode).2 (existsAt_of_position hd _)
  | mux =>
    obtain ⟨hbuilt, hbits⟩ := Option.ite_none_right_eq_some.1 hword
    rw [← Option.some_inj.1 hbits, decode_mux_packBits] at hdecode
    rw [← Except.ok.inj hdecode]
    exact existsAt_decodeMux (State.atLastOffset_or_one_lt (Bool.and_eq_true_iff.1 hbuilt).2)
  | _ => exact existsAt_of_block _ (by simp [hblock]) (by simp [hblock])

theorem State.hasMux_of_controlWord {s : State} {w : CtrlWord} (h : s.controlWord .mux = some w) :
    s.par.hasMux = true :=
  (Bool.and_eq_true_iff.1 (Option.ite_none_right_eq_some.1 h).1).1

theorem State.hasDac_of_controlWord {s : State} {b : Block} {w : CtrlWord} (hb : b = .dsm ∨ b = .seq)
    (h : s.controlWord b = some w) : s.par.hasDac = true := by
  rcases hb with rfl | rfl <;> exact (Option.ite_none_right_eq_some.1 h).1

/-! ### Registers put where an operation fires stay within their ranges -/

theorem Regs.Ok.with_cntSample {p : Params} {g : Regs} {v : Nat} (h : g.Ok p) (hv : v < p.cyclesSample) :
    { g with cntSample := v }.Ok p := by
  obtain ⟨-, hrest⟩ := h
  exact ⟨hv, hrest⟩

theorem Regs.Ok.with_cntPulse {p : Params} {g : Regs} {v : Nat} (h : g.Ok p) (hv : v < p.cyclesPulse) :
    { g with cntPulse := v }.Ok p := by
  obtain ⟨hcs, -, hrest⟩ := h
  exact ⟨hcs, hv, hrest⟩

theorem Regs.Ok.with_dstate {p : Params} {g : Regs} {d : DState} (h : g.Ok p) (hd : p.dstateReachable d = true) :
    { g with dstate := d }.Ok p := by
  obtain ⟨hcs, hcp, hphase, -, hrest⟩ := h
  exact ⟨hcs, hcp, hphase, hd, hrest⟩

theorem Regs.Ok.with_off {p : Params} {g : Regs} {o : BitVec 2} (h : g.Ok p) (ho : p.offReachable o = true) :
    { g with off := o }.Ok p := by
  obtain ⟨hcs, hcp, hphase, hd, hchan, hsub, -, hrest⟩ := h
  exact ⟨hcs, hcp, hphase, hd, hchan, hsub, ho, hrest⟩

theorem Regs.Ok.with_vq {p : Params} {g : Regs} {q : Fifo} (h : g.Ok p) (hq : q.Ok p.bits) :
    { g with vq := q }.Ok p := by
  obtain ⟨hcs, hcp, hphase, hd, hchan, hsub, hoff, hacclen, hacc, hrlen, hr, hhlen, hh, hqlen, hqs, -, hmag⟩ := h
  exact ⟨hcs, hcp, hphase, hd, hchan, hsub, hoff, hacclen, hacc, hrlen, hr, hhlen, hh, hqlen, hqs, hq, hmag⟩

/-! ### Dividers -/

/-- The counter with which a divider pulses, or not, on the next tick. -/
def State.cntFor (s : State) (d : Divider) (on : Bool) : Nat :=
  if on then 0 else if s.cnt d = 0 then s.par.cycles d - 1 else s.cnt d

theorem State.setPulse_sample (s : State) (on : Bool) :
    s.setPulse .sample on = s.mapRegs fun r => { r with cntSample := s.cntFor .sample on } := rfl

theorem State.setPulse_pulse (s : State) (on : Bool) :
    s.setPulse .pulse on = s.mapRegs fun r => { r with cntPulse := s.cntFor .pulse on } := rfl

theorem State.cntFor_lt {s : State} {d : Divider} (hlt : s.cnt d < s.par.cycles d) (on : Bool) :
    s.cntFor d on < s.par.cycles d := by
  unfold State.cntFor
  split_ifs <;> omega

/-- A divider of at least two cycles has a counter value on which it does not pulse. -/
theorem State.cntFor_beq_zero {s : State} {d : Divider} (hc : 2 ≤ s.par.cycles d) (on : Bool) :
    (s.cntFor d on == 0) = on := by
  unfold State.cntFor
  cases on with
  | true => rfl
  | false =>
    simp only [Bool.false_eq_true, if_false, beq_eq_false_iff_ne]
    split_ifs <;> omega

theorem State.pulse_setPulse {s : State} {d : Divider} (hc : 2 ≤ s.par.cycles d) (on : Bool) :
    (s.setPulse d on).pulse d = on := by
  cases d <;> exact State.cntFor_beq_zero hc on

theorem State.Ok.setPulse {s : State} (h : s.Ok) (d : Divider) (on : Bool) : (s.setPulse d on).Ok := by
  obtain ⟨hpar, hregs⟩ := h
  have ⟨hcs, hcp, _⟩ := hregs
  cases d with
  | sample =>
    rw [State.setPulse_sample]
    exact ⟨hpar, hregs.with_cntSample (State.cntFor_lt (d := .sample) hcs on)⟩
  | pulse =>
    rw [State.setPulse_pulse]
    exact ⟨hpar, hregs.with_cntPulse (State.cntFor_lt (d := .pulse) hcp on)⟩

@[simp] theorem State.setPulse_par (s : State) (d : Divider) (on : Bool) : (s.setPulse d on).par = s.par := by
  cases d <;> rfl

@[simp] theorem State.setPulse_seq (s : State) (d : Divider) (on : Bool) :
    (s.setPulse d on).regs.seq = s.regs.seq := by
  cases d <;> rfl

/-! ### The meter -/

theorem State.Ok.mapVq {s : State} (h : s.Ok) {items : List Pattern} (hlen : items.length ≤ 16)
    (hzero : ∀ v ∈ items, v = 0) : (s.mapRegs fun r => { r with vq := { r.vq with items := items } }).Ok := by
  obtain ⟨hpar, hregs⟩ := h
  have ⟨_, _, _, _, _, _, _, _, _, _, _, _, _, _, _, ⟨_, _, hlast⟩, _⟩ := hregs
  exact ⟨hpar, hregs.with_vq ⟨hlen, fun v hv => hzero v hv ▸ Nat.two_pow_pos _, hlast⟩⟩

theorem State.Ok.setVqFull {s : State} (h : s.Ok) (full : Bool) : (s.setVqFull full).Ok := by
  unfold State.setVqFull
  split
  · exact h
  · cases full with
    | true => exact h.mapVq (by decide) fun v => List.eq_of_mem_replicate
    | false => exact h.mapVq (by decide) fun v hv => absurd hv List.not_mem_nil

theorem State.Ok.setVqEmpty {s : State} (h : s.Ok) (empty : Bool) : (s.setVqEmpty empty).Ok := by
  unfold State.setVqEmpty
  split
  · exact h
  · cases empty with
    | true => exact h.mapVq (by decide) fun v hv => absurd hv List.not_mem_nil
    | false => exact h.mapVq (by decide) fun v => List.mem_singleton.1

@[simp] theorem State.setVqFull_par (s : State) (full : Bool) : (s.setVqFull full).par = s.par := by
  unfold State.setVqFull
  split <;> rfl

@[simp] theorem State.setVqEmpty_par (s : State) (empty : Bool) : (s.setVqEmpty empty).par = s.par := by
  unfold State.setVqEmpty
  split <;> rfl

@[simp] theorem State.setVqFull_inp (s : State) (full : Bool) : (s.setVqFull full).inp = s.inp := by
  unfold State.setVqFull
  split <;> rfl

@[simp] theorem State.setVqEmpty_sampleTick (s : State) (empty : Bool) :
    (s.setVqEmpty empty).sampleTick = s.sampleTick := by
  unfold State.setVqEmpty
  split <;> rfl

@[simp] theorem State.isFull_setVqFull (s : State) (full : Bool) : (s.setVqFull full).regs.vq.isFull = full := by
  unfold State.setVqFull
  split
  · next h => exact h
  · cases full <;> rfl

@[simp] theorem State.isEmpty_setVqEmpty (s : State) (empty : Bool) :
    (s.setVqEmpty empty).regs.vq.isEmpty = empty := by
  unfold State.setVqEmpty
  split
  · next h => exact h
  · cases empty <;> rfl

/-! ### The machine put where a block's control word is given bits -/

/-- A machine within its ranges, of the same constants, in which the block's control word has these bits. -/
abbrev State.PutAt (s t : State) (b : Block) (bits : List Bool) : Prop :=
  t.par = s.par ∧ t.Ok ∧ t.controlWord b = some (packBits bits)

theorem State.Ok.putAt_rdiv {s : State} (h : s.Ok) {d : Divider} (hc : 2 ≤ s.par.cycles d) (on : Bool) :
    s.PutAt (s.setPulse d on) (.rdiv d) [on] :=
  ⟨s.setPulse_par d on, h.setPulse d on, by rw [State.controlWord, State.pulse_setPulse hc]⟩

theorem State.Ok.putAt_nco {s : State} (h : s.Ok) (ready : Bool) :
    s.PutAt (s.mapInputs fun i => { i with ncoReady := ready }) .nco [ready] :=
  ⟨rfl, h, rfl⟩

theorem State.Ok.putAt_fb {s : State} (h : s.Ok) (k : BitVec 2) :
    s.PutAt (s.mapInputs fun i => { i with fbIndex := k }) .fb [k.getLsbD 1, k.getLsbD 0] :=
  ⟨rfl, h, rfl⟩

theorem State.Ok.putAt_dsm {s : State} (h : s.Ok) (hdac : s.par.hasDac = true) (hc : 2 ≤ s.par.cyclesPulse)
    (u st : Bool) : s.PutAt (s.setDsm u st) .dsm [u, st] := by
  have hupdate : (s.setDsm u st).update = u := by
    rw [State.update, State.setDsm, State.setPulse_seq]
    cases u with
    | true => rfl
    | false =>
      show ((if s.regs.seq = .latch then SeqState.wait else s.regs.seq) == .latch) = false
      split_ifs with hlatch
      · rfl
      · exact beq_eq_false_iff_ne.2 hlatch
  have hok : (s.setDsm u st).Ok := State.Ok.setPulse (s := s.setSeq _) h .pulse st
  have hstb : (s.setDsm u st).stb = st := State.pulse_setPulse (d := .pulse) hc st
  have hpar : (s.setDsm u st).par = s.par := rfl
  exact ⟨hpar, hok, by rw [State.controlWord, hpar, if_pos hdac, hupdate, hstb]⟩

theorem State.Ok.putAt_seq {s : State} (h : s.Ok) (hdac : s.par.hasDac = true) (hc : 2 ≤ s.par.cyclesSample)
    (q : SeqState) (t : Bool) :
    s.PutAt ((s.setSeq q).setPulse .sample t) .seq (q.codeBits ++ [t]) := by
  have htick : ((s.setSeq q).setPulse .sample t).sampleTick = t := State.pulse_setPulse (d := .sample) hc t
  refine ⟨rfl, State.Ok.setPulse (s := s.setSeq q) h .sample t, ?_⟩
  rw [State.controlWord, htick]
  exact if_pos hdac

theorem State.Ok.putAt_vui {s : State} (h : s.Ok) (v n : Bool) :
    s.PutAt ((s.setVuValid v).setVqFull n) .vui [v, n] := by
  refine ⟨by simp [State.setVuValid], State.Ok.setVqFull (s := s.setVuValid v) h n, ?_⟩
  simp [State.controlWord, State.setVuValid]

theorem State.Ok.putAt_vuo {s : State} (h : s.Ok) (hc : 2 ≤ s.par.cyclesSample) (t m : Bool) :
    s.PutAt ((s.setPulse .sample t).setVqEmpty m) .vuo [t, m] := by
  have htick : (s.setPulse .sample t).sampleTick = t := State.pulse_setPulse (d := .sample) hc t
  exact ⟨by simp, (h.setPulse .sample t).setVqEmpty m, by simp [State.controlWord, htick]⟩

/-- The last position of a subframe has a code of two bits. -/
theorem Params.last_mod_four (p : Params) : (p.subslot - 1) % 4 = p.subslot - 1 := by
  have hsize := p.subslot_le_four
  omega

theorem Params.subslot_pos (p : Params) : 0 < p.subslot := p.depth.subslot_pos

theorem State.Ok.putAt_mux {s : State} (h : s.Ok) (hmux : s.par.hasMux = true) {l : Bool}
    (hl : l = true ∨ 1 < s.par.subslot) (ready : Bool) : s.PutAt (s.setMux ready l) .mux [ready, l] := by
  have hpos := s.par.subslot_pos
  have hpar : (s.setMux ready l).par = s.par := rfl
  have hoff : (s.setMux ready l).regs.off.toNat = if l then s.par.subslot - 1 else 0 := by
    cases l with
    | true => exact s.par.last_mod_four
    | false => rfl
  have hreach : s.par.offReachable (s.setMux ready l).regs.off = true := by
    rw [Params.offReachable, hoff, decide_eq_true_eq]
    split_ifs <;> omega
  have hlast : (s.setMux ready l).atLastOffset = l := by
    rw [State.atLastOffset, hoff, hpar]
    cases l with
    | true => exact beq_self_eq_true _
    | false =>
      have hsize : 1 < s.par.subslot := hl.resolve_left Bool.false_ne_true
      exact beq_eq_false_iff_ne.2 (show 0 ≠ s.par.subslot - 1 by omega)
  refine ⟨hpar, ⟨h.1, h.2.with_off hreach⟩, ?_⟩
  rw [State.controlWord, hpar, hmux, hreach, hlast]
  rfl

/-! ### The demultiplexer -/

/-- The control word of the demultiplexer, bit by bit. -/
theorem State.controlWord_dmx {s : State} {e l k g f : Bool} (hd : s.par.dstateReachable s.regs.dstate = true)
    (he : s.inError = e) (hl : s.atByte (s.par.subslot - 1) = l) (hk : s.atByte 0 = k) (hg : s.go = g)
    (hf : s.inp.dmxFirst = f) : s.controlWord .dmx = some (packBits [e, l, k, g, f]) := by
  rw [State.controlWord, if_pos hd, he, hl, hk, hg, hf]

/-- With a byte to take and every consumer ready, the demultiplexer goes on; without a byte it does not (R171). -/
theorem State.go_setDmx {s : State} (hc : 1 ≤ s.par.channels) (e l k g f : Bool) : (s.setDmx e l k g f).go = g := by
  cases g with
  | false => rfl
  | true =>
    have hready : (s.setDmx e l k true f).dmxReady 0 = true := by
      have hpos : 0 < s.par.channels := hc
      simp [State.dmxReady, State.setDmx, hpos]
    have hany : (s.setDmx e l k true f).anyReady = true :=
      List.any_eq_true.2 ⟨true, State.mem_perChannel.2 ⟨0, hc, hready⟩, rfl⟩
    rw [State.go, hany]
    rfl

/-- The code of a position. -/
def Params.dstateFor (p : Params) (e l k : Bool) : DState :=
  if e then .error else if k then .byte 0 else if l then .byte (Fin.ofNat 4 (p.subslot - 1)) else .byte 1

theorem State.setDmx_dstate (s : State) (e l k g f : Bool) :
    (s.setDmx e l k g f).regs.dstate = s.par.dstateFor e l k := rfl

/-- The byte position numbered `j` as the flags of the control word have it. -/
theorem flags_of_bytePosition {size j : Nat} {l k : Bool}
    (hex : if l then (if k then size = 1 else 1 < size) else if k then 1 < size else 2 < size)
    (hj : j = if k then 0 else if l then size - 1 else 1) :
    j < size ∧ (j == size - 1) = l ∧ (j == 0) = k := by
  subst hj
  cases k <;> cases l <;> simp at hex ⊢ <;> omega

/-- A position that exists has a code, which is reachable and of which the flags of the control word tell. -/
theorem State.position_of_dstateFor {s : State} {e l k f : Bool}
    (hwf : (Instr.dmxHold e l k f).wellFormed = true)
    (hex : (Instr.dmxHold e l k f).existsAt s.par.subslot = true) (h : s.regs.dstate = s.par.dstateFor e l k) :
    s.par.dstateReachable s.regs.dstate = true ∧ s.inError = e ∧
      s.atByte (s.par.subslot - 1) = l ∧ s.atByte 0 = k := by
  have hlast := s.par.last_mod_four
  cases e with
  | true =>
    have hst : s.regs.dstate = .error := h
    obtain ⟨rfl, rfl⟩ : l = false ∧ k = false := by simpa [Instr.wellFormed] using hwf
    exact ⟨hst ▸ Params.dstateReachable_error.2 (of_decide_eq_true hex), by simp [State.inError, hst],
      State.atByte_of_error hst _, State.atByte_of_error hst _⟩
  | false =>
    rw [existsAt_dmxHold_byte] at hex
    obtain ⟨j, hst, hj⟩ : ∃ j : Fin 4, s.regs.dstate = .byte j ∧
        j.val = if k then 0 else if l then s.par.subslot - 1 else 1 := by
      rw [h]
      cases k <;> cases l <;> exact ⟨_, rfl, by simp [hlast]⟩
    rw [State.atByte_of_byte hst, State.atByte_of_byte hst, hst, Params.dstateReachable_byte]
    obtain ⟨hlt, hl, hk⟩ := flags_of_bytePosition hex hj
    exact ⟨hlt, by simp [State.inError, hst], hl, hk⟩

theorem State.Ok.putAt_dmx {s : State} (h : s.Ok) {e l k : Bool} (f : Bool)
    (hwf : (Instr.dmxHold e l k f).wellFormed = true)
    (hex : (Instr.dmxHold e l k f).existsAt s.par.subslot = true) (g : Bool) :
    s.PutAt (s.setDmx e l k g f) .dmx [e, l, k, g, f] := by
  obtain ⟨hpar, hregs⟩ := h
  obtain ⟨hd, he, hl, hk⟩ :=
    State.position_of_dstateFor (s := s.setDmx e l k g f) hwf hex (s.setDmx_dstate e l k g f)
  have hgo := State.go_setDmx hpar.1 e l k g f
  exact ⟨rfl, ⟨hpar, hregs.with_dstate hd⟩, State.controlWord_dmx hd he hl hk hgo rfl⟩

/-! ### Every operation that exists fires somewhere -/

theorem exists_ok_of_params {p : Params} (hp : p.Ok) : ∃ s : State, s.par = p ∧ s.Ok := by
  have hzero : ∀ {n v : Nat}, v ∈ List.replicate p.channels 0 → v < 2 ^ n := fun {n v} hv => by
    rw [List.eq_of_mem_replicate hv]
    positivity
  have hqueues : ∀ f ∈ List.replicate p.channels Fifo.reset, f.Ok p.bits := fun f hf => by
    rw [List.eq_of_mem_replicate hf]
    exact Fifo.reset_ok p.bits
  have hmag : p.MagOk 0 := by
    unfold Params.MagOk
    split <;> positivity
  have ⟨hchannels, _, _, _, _, _, _, _, _, hcs, hcp, _⟩ := hp
  refine ⟨State.initial p (resetRegs { defaultConfig with accInit := List.replicate p.channels 0 } p), rfl, hp, ?_⟩
  exact ⟨hcs, hcp, Nat.two_pow_pos _, Params.dstateReachable_byte.2 p.subslot_pos, hchannels, List.length_replicate,
    decide_eq_true p.subslot_pos, List.length_replicate, fun _ => hzero, List.length_replicate, fun _ => hzero,
    List.length_replicate, fun _ => hzero, List.length_replicate, hqueues, Fifo.reset_ok p.bits, hmag⟩

/-- A machine can be put where an operation that exists is the one its block performs. -/
theorem State.Ok.putAt_selecting {s : State} (h : s.Ok) (hcs : 2 ≤ s.par.cyclesSample) (hcp : 2 ≤ s.par.cyclesPulse)
    {i : Instr} (hwf : i.wellFormed = true) (hex : i.existsAt s.par.subslot = true)
    (hmux : i.block = .mux → s.par.hasMux = true) (hdac : i.block = .dsm ∨ i.block = .seq → s.par.hasDac = true) :
    (s.selecting i).par = s.par ∧ (s.selecting i).Ok ∧ (s.selecting i).controlWord i.block = some i.encode := by
  have hc : ∀ d, 2 ≤ s.par.cycles d := fun d => by cases d <;> assumption
  have hposition {e l k f : Bool} {j : Instr} (hdecode : decodeDmx e l k true f = .ok j) :=
    (existsAt_of_decodeDmx s.par.subslot_pos hdecode).1
  cases i with
  | rdivReload d => exact h.putAt_rdiv (hc d) true
  | rdivCount d => exact h.putAt_rdiv (hc d) false
  | ncoAdvance => exact h.putAt_nco true
  | ncoHold => exact h.putAt_nco false
  | dmxHold e l k f => exact h.putAt_dmx f hwf hex false
  | dmxStart l f => exact h.putAt_dmx f rfl (hposition rfl hex) true
  | dmxMid => exact h.putAt_dmx false rfl (hposition rfl hex) true
  | dmxLast => exact h.putAt_dmx false rfl (hposition rfl hex) true
  | dmxViolate l => exact h.putAt_dmx true rfl (hposition rfl hex) true
  | dmxResync l k f => exact h.putAt_dmx (e := true) (l := l) (k := k) f hwf hex true
  | muxHold l => exact h.putAt_mux (hmux rfl) (by simpa [Instr.existsAt] using hex) false
  | muxByte => exact h.putAt_mux (hmux rfl) (.inr (of_decide_eq_true hex)) true
  | muxWrap => exact h.putAt_mux (hmux rfl) (.inl rfl) true
  | dsmHold => exact h.putAt_dsm (hdac (.inl rfl)) hcp false false
  | dsmMod => exact h.putAt_dsm (hdac (.inl rfl)) hcp false true
  | dsmUpdate => exact h.putAt_dsm (hdac (.inl rfl)) hcp true false
  | dsmModupd => exact h.putAt_dsm (hdac (.inl rfl)) hcp true true
  | seqWait => exact h.putAt_seq (hdac (.inr rfl)) hcs .wait false
  | seqFire => exact h.putAt_seq (hdac (.inr rfl)) hcs .wait true
  | seqRead t => exact h.putAt_seq (hdac (.inr rfl)) hcs .channelRead t
  | seqLatch t => exact h.putAt_seq (hdac (.inr rfl)) hcs .latch t
  | vuPush => exact h.putAt_vui true false
  | vuReject => exact h.putAt_vui true true
  | vuNopush n => exact h.putAt_vui false n
  | vuPop => exact h.putAt_vuo hcs true false
  | vuStarve => exact h.putAt_vuo hcs true true
  | vuKeep m => exact h.putAt_vuo hcs false m
  | fbRead k => exact h.putAt_fb k

/-- Settles O5: `State.selecting` is a machine in which the operation fires, and an operation that fires is one that
its block's control word can name. -/
theorem firingOperationsAreTheReachableOnes : Obligations.FiringOperationsAreTheReachableOnes := by
  intro p hp hcs hcp i
  constructor
  · rintro ⟨hwf, hex, hmux, hdac⟩
    obtain ⟨s, rfl, hs⟩ := exists_ok_of_params hp
    obtain ⟨hpar, hok, hword⟩ := hs.putAt_selecting hcs hcp hwf hex hmux hdac
    exact ⟨s.selecting i, hpar, hok, State.fetch_eq_ok_iff.2 ⟨rfl, hwf, hword⟩⟩
  · rintro ⟨s, rfl, -, hfetch⟩
    obtain ⟨-, hwf, hword⟩ := State.fetch_eq_ok_iff.1 hfetch
    exact ⟨hwf, existsAt_of_fetch hfetch, fun hb => State.hasMux_of_controlWord (hb ▸ hword),
      fun hb => State.hasDac_of_controlWord hb hword⟩

/-! ## Samples and their bytes (R92, R93, R96) -/

theorem toNat_append_byte {n : Nat} (x : BitVec n) (y : Byte) : (x ++ y).toNat = y.toNat + 256 * x.toNat := by
  rw [BitVec.toNat_append, ← Nat.shiftLeft_add_eq_or_of_lt y.isLt, Nat.shiftLeft_eq]
  omega

/-- Dropping the first byte of a subslot word, which is its least significant one (R76). -/
theorem subslotWord_cons_div (x : Byte) (xs : List Byte) : subslotWord (x :: xs) / 256 = subslotWord xs := by
  have hx := x.isLt
  simp only [subslotWord]
  omega

/-- Settles O35: the bytes but the padding one, first byte last, are the sample's pattern. -/
theorem assemblyDropsThePaddingByte : Obligations.AssemblyDropsThePaddingByte := by
  refine ⟨fun x => ?_, fun x y => ?_, fun x y z w => ?_, fun x y z w => ?_⟩
  · exact Nat.div_one _
  · rw [toNat_append_byte]
    exact Nat.div_one _
  · rw [toNat_append_byte, toNat_append_byte]
    exact subslotWord_cons_div x [y, z, w]
  · rw [toNat_append_byte, toNat_append_byte, toNat_append_byte]
    exact Nat.div_one _

theorem byteAt_succ (w k : Nat) : byteAt w (k + 1) = byteAt (w / 256) k := by
  rw [byteAt, byteAt, Nat.div_div_eq_div_mul, Nat.mul_succ, Nat.add_comm, pow_add]
  rfl

/-- The n low bytes of a number, in order, make up its 8n low bits. -/
theorem subslotWord_map_byteAt (n : Nat) :
    ∀ w : Nat, subslotWord ((List.range n).map (byteAt w)) = w % 2 ^ (8 * n) := by
  induction n with
  | zero => intro w; simp [subslotWord, Nat.mod_one]
  | succ n ih =>
    intro w
    have htail : (List.range n).map (byteAt w ∘ Nat.succ) = (List.range n).map (byteAt (w / 256)) :=
      List.map_congr_left fun k _ => byteAt_succ w k
    have hfirst : (byteAt w 0).toNat = w % 256 := by simp [byteAt]
    rw [List.range_succ_eq_map, List.map_cons, List.map_map, htail, subslotWord, ih, hfirst, Nat.mul_succ,
      Nat.add_comm (8 * n), pow_add, Nat.mod_mul]
    rfl

theorem BitDepth.bits_add_pad (d : BitDepth) : d.bits + d.pad = 8 * d.subslot := by cases d <;> rfl

/-- Settles O42: the packed word has `8S` bits, so its S bytes are all of it, and shifting it back gives the sample. -/
theorem unpackingInvertsPacking : Obligations.UnpackingInvertsPacking := by
  intro d v hv
  have hpacked : packSample d v = v * 2 ^ d.pad := by rw [packSample, trunc, Nat.mod_eq_of_lt hv]
  have hwidth : v * 2 ^ d.pad < 2 ^ (8 * d.subslot) := by
    rw [← d.bits_add_pad, pow_add]
    exact Nat.mul_lt_mul_of_pos_right hv (Nat.two_pow_pos _)
  rw [assemble, subslotWord_map_byteAt, hpacked, Nat.mod_eq_of_lt hwidth, Nat.mul_div_cancel _ (Nat.two_pow_pos _)]

/-! ## The signed-to-offset conversion (R98) -/

/-- Turning the bit above an n-bit number on. -/
theorem xor_two_pow_of_lt {n v : Nat} (h : v < 2 ^ n) : v ^^^ 2 ^ n = v + 2 ^ n := by
  have hor : v + 2 ^ n = 2 ^ n ||| v := by
    simpa [Nat.add_comm] using Nat.two_pow_add_eq_or_of_lt h 1
  rw [hor]
  apply Nat.eq_of_testBit_eq
  intro i
  by_cases hi : n = i
  · subst hi
    simp [Nat.testBit_lt_two_pow h]
  · simp [hi]

/-- Turning a number's top bit over adds half scale to what the pattern stands for. -/
theorem xor_half_eq_signedVal_add {n v : Nat} (hn : 0 < n) (hv : v < 2 ^ n) :
    ((v ^^^ 2 ^ (n - 1) : Nat) : Int) = signedVal n v + 2 ^ (n - 1) := by
  have hdouble : 2 * 2 ^ (n - 1) = 2 ^ n := mul_pow_sub_one hn.ne' 2
  unfold signedVal
  split
  · next hlow =>
    rw [xor_two_pow_of_lt hlow]
    push_cast
    rfl
  · next hhigh =>
    obtain ⟨u, rfl⟩ := Nat.exists_eq_add_of_le' (Nat.not_lt.1 hhigh)
    have hu : u < 2 ^ (n - 1) := by omega
    rw [← xor_two_pow_of_lt hu, Nat.xor_xor_cancel_right]
    rw [xor_two_pow_of_lt hu]
    push_cast
    zify at hdouble
    omega

/-- Settles O47, by `xor_half_eq_signedVal_add`. -/
theorem offsetBinaryAddsHalfScale : Obligations.OffsetBinaryAddsHalfScale := by
  intro p v hv
  refine ⟨fun hsigned => ?_, fun hunsigned => by simp [offsetBinary, hunsigned]⟩
  have hxor : offsetBinary p v = v ^^^ 2 ^ (p.bits - 1) := if_pos hsigned
  exact ⟨hxor, hxor ▸ xor_half_eq_signedVal_add p.bits_pos hv⟩

end Sys2Proof.Machine

namespace Sys2Proof.Machine

/-! ## Runs of ticks (R70, R305) -/

theorem State.Ok.iterate_afterTick {s : State} (h : s.Ok) : ∀ k : Nat, (State.afterTick^[k] s).Ok
  | 0 => h
  | k + 1 => h.afterTick.iterate_afterTick k

theorem State.iterate_afterTick_par (s : State) : ∀ k : Nat, (State.afterTick^[k] s).par = s.par
  | 0 => rfl
  | k + 1 => s.afterTick.iterate_afterTick_par k

theorem State.Ok.ran_succ {s : State} (h : s.Ok) (k : Nat) : s.ran (k + 1) = s.afterTick.ran k := by
  have hstep : core.step s = .next s.afterTick := h.step_eq
  simp only [State.ran, Host.Core.run, hstep]

/-- A run from a machine within its ranges is the register view's tick, iterated. -/
theorem State.Ok.ran_eq {s : State} (h : s.Ok) : ∀ k : Nat, s.ran k = some (State.afterTick^[k] s)
  | 0 => rfl
  | k + 1 => (h.ran_succ k).trans (h.afterTick.ran_eq k)

/-! ## The pulses of a divider (R125 to R128) -/

theorem State.pulse_eq_true_iff {s : State} {d : Divider} : s.pulse d = true ↔ s.cnt d = 0 := beq_iff_eq

theorem State.pulse_eq_false_iff {s : State} {d : Divider} : s.pulse d = false ↔ s.cnt d ≠ 0 := beq_eq_false_iff_ne

theorem State.cnt_afterTick (s : State) (d : Divider) : s.afterTick.cnt d = s.cntAfter d := by cases d <;> rfl

theorem State.Ok.cnt_lt_cycles {s : State} (h : s.Ok) (d : Divider) : s.cnt d < s.par.cycles d := by
  obtain ⟨-, hsample, hpulse, -⟩ := h
  cases d with
  | sample => exact hsample
  | pulse => exact hpulse

/-- A divider counts down modulo `cycles`: the reload takes 0 to `cycles - 1` (R126). -/
theorem State.cntAfter_add_one_modEq {s : State} {d : Divider} (h : s.cnt d < s.par.cycles d) :
    s.cntAfter d + 1 ≡ s.cnt d [MOD s.par.cycles d] := by
  unfold State.cntAfter
  split
  · next hzero =>
    rw [Nat.sub_add_cancel (Nat.zero_lt_of_lt h), hzero]
    exact Nat.modEq_zero_iff_dvd.2 dvd_rfl
  · next hne => rw [Nat.sub_add_cancel (Nat.pos_of_ne_zero hne)]

/-- After `k` ticks a divider's counter is `k` further down, modulo `cycles`. -/
theorem State.Ok.cnt_iterate_add_modEq {s : State} (h : s.Ok) (d : Divider) (k : Nat) :
    (State.afterTick^[k] s).cnt d + k ≡ s.cnt d [MOD s.par.cycles d] := by
  induction k with
  | zero => rfl
  | succ k ih =>
    have hstep := State.cntAfter_add_one_modEq ((h.iterate_afterTick k).cnt_lt_cycles d)
    rw [s.iterate_afterTick_par k] at hstep
    rw [Function.iterate_succ_apply', State.cnt_afterTick, Nat.add_comm k, ← Nat.add_assoc]
    exact (hstep.add_right k).trans ih

/-- Settles O23, by `State.Ok.cnt_iterate_add_modEq`: the counter, below `cycles`, is 0 exactly when it is 0 modulo
`cycles`. -/
theorem pulsesAreExactlyPeriodic : Obligations.PulsesAreExactlyPeriodic := by
  intro s d k hs
  refine ⟨_, hs.ran_eq k, State.pulse_eq_true_iff.trans ?_⟩
  have hcount := hs.cnt_iterate_add_modEq d k
  have hlt := (hs.iterate_afterTick k).cnt_lt_cycles d
  rw [s.iterate_afterTick_par k] at hlt
  constructor
  · intro hzero
    rwa [hzero, Nat.zero_add] at hcount
  · intro hk
    have hshift : (State.afterTick^[k] s).cnt d + k ≡ 0 + k [MOD s.par.cycles d] := by
      rw [Nat.zero_add]
      exact hcount.trans (Nat.ModEq.symm hk)
    exact (Nat.ModEq.add_right_cancel' k hshift).eq_of_lt_of_lt hlt (Nat.zero_lt_of_lt hlt)

theorem exec_rdivReload {s : State} {d : Divider} (h : s.cnt d = 0) :
    exec (.rdivReload d) s = .next ((s.driveRdiv d).writeCnt d (s.par.cycles d - 1)) := by
  have hword : s.controlWord (.rdiv d) = some (packBits [true]) := by
    rw [State.controlWord, State.pulse_eq_true_iff.2 h]
  exact State.perform_of_selected hword

theorem exec_rdivCount {s : State} {d : Divider} (h : s.cnt d ≠ 0) :
    exec (.rdivCount d) s = .next ((s.driveRdiv d).writeCnt d (s.cnt d - 1)) := by
  have hword : s.controlWord (.rdiv d) = some (packBits [false]) := by
    rw [State.controlWord, State.pulse_eq_false_iff.2 h]
  exact State.perform_of_selected hword

/-- Settles O22: the pulse that a divider drives is 1 where it reloads and 0 where it counts. -/
theorem rateDividerOperations : Obligations.RateDividerOperations := by
  refine ⟨fun d => ⟨rfl, rfl⟩, fun s h => ?_, fun s h => ?_, fun s h => ?_, fun s h => ?_⟩
  · have hpulse : s.pulse .sample = true := State.pulse_eq_true_iff.2 h
    rw [exec_rdivReload (d := .sample) h, State.driveRdiv, hpulse]
    rfl
  · have hpulse : s.pulse .pulse = true := State.pulse_eq_true_iff.2 h
    rw [exec_rdivReload (d := .pulse) h, State.driveRdiv, hpulse]
    rfl
  · have hpulse : s.pulse .sample = false := State.pulse_eq_false_iff.2 h
    rw [exec_rdivCount (d := .sample) h, State.driveRdiv, hpulse]
    rfl
  · have hpulse : s.pulse .pulse = false := State.pulse_eq_false_iff.2 h
    rw [exec_rdivCount (d := .pulse) h, State.driveRdiv, hpulse]
    rfl

/-! ## Rounding (00_scope.md section 4) -/

theorem roundHalfEven_of_fract_lt {x : Rat} (h : Int.fract x < 1 / 2) : roundHalfEven x = ⌊x⌋ := if_pos h

theorem roundHalfEven_of_lt_fract {x : Rat} (h : 1 / 2 < Int.fract x) : roundHalfEven x = ⌊x⌋ + 1 :=
  (if_neg h.not_gt).trans (if_pos h)

/-- On a tie `round` takes the even one of the two nearest integers. -/
theorem roundHalfEven_of_fract_eq {x : Rat} (h : Int.fract x = 1 / 2) :
    Even (roundHalfEven x) ∧ (roundHalfEven x = ⌊x⌋ ∨ roundHalfEven x = ⌊x⌋ + 1) := by
  have htie : roundHalfEven x = if ⌊x⌋ % 2 = 0 then ⌊x⌋ else ⌊x⌋ + 1 :=
    (if_neg h.not_lt).trans (if_neg h.not_gt)
  rw [htie]
  split
  · next heven => exact ⟨Int.even_iff.2 heven, .inl rfl⟩
  · next hodd => exact ⟨(Int.not_even_iff_odd.1 (mt Int.even_iff.1 hodd)).add_one, .inr rfl⟩

theorem roundHalfEven_intCast (n : Int) : roundHalfEven n = n := by
  rw [roundHalfEven_of_fract_lt (by norm_num), Int.floor_intCast]

theorem abs_sub_floor_eq_fract (x : Rat) : |x - ⌊x⌋| = Int.fract x := abs_of_nonneg (Int.fract_nonneg x)

theorem abs_sub_floor_add_one_eq (x : Rat) : |x - (⌊x⌋ + 1 : Int)| = 1 - Int.fract x := by
  have hle := Int.fract_lt_one x
  rw [abs_sub_comm, ← abs_of_pos (sub_pos.2 hle), Int.fract]
  push_cast
  congr 1
  ring

/-- Settles O26, by where the fraction lies: below a half, on it or above it. -/
theorem roundIsNearestTiesToEven : Obligations.RoundIsNearestTiesToEven := by
  intro x
  rcases lt_trichotomy (Int.fract x) (1 / 2) with hlow | htie | hhigh
  · rw [roundHalfEven_of_fract_lt hlow, abs_sub_floor_eq_fract]
    exact ⟨hlow.le, fun heq => absurd heq hlow.ne⟩
  · obtain ⟨heven, hround | hround⟩ := roundHalfEven_of_fract_eq htie
    · exact ⟨by rw [hround, abs_sub_floor_eq_fract, htie], fun _ => heven⟩
    · exact ⟨by rw [hround, abs_sub_floor_add_one_eq, htie]; norm_num, fun _ => heven⟩
  · rw [roundHalfEven_of_lt_fract hhigh, abs_sub_floor_add_one_eq]
    exact ⟨by linarith, fun heq => absurd heq (by linarith)⟩

/-! ## CFG.RDIV (R121 to R124) -/

theorem cfgRdiv_eq_ok_iff {which : Divider} {m t ppm : Rat} {c : Nat} :
    cfgRdiv which m t ppm = .ok c ↔ dividerCycles m t = c ∧ c ≠ 0 ∧ deviation m t c * 1000000 ≤ ppm := by
  simp only [cfgRdiv]
  split
  · next hzero =>
    refine ⟨nofun, ?_⟩
    rintro ⟨hcycles, hne, -⟩
    exact absurd (hcycles.symm.trans hzero) hne
  · next hne =>
    split
    · next hfar =>
      refine ⟨nofun, ?_⟩
      rintro ⟨rfl, -, hnear⟩
      exact absurd hnear hfar.not_ge
    · next hnear =>
      constructor
      · rintro ⟨rfl⟩
        exact ⟨rfl, hne, not_lt.1 hnear⟩
      · rintro ⟨rfl, -, -⟩
        rfl

/-- Settles O24: a divisor of at least 1 is a rounded quotient that no truncation to `Nat` has changed. -/
theorem dividerBuiltIffRoundedDivisorWithinTolerance :
    Obligations.DividerBuiltIffRoundedDivisorWithinTolerance := by
  intro which m t ppm c _ _
  have hcycles : dividerCycles m t = c ∧ c ≠ 0 ↔ roundHalfEven (m / t) = c ∧ 1 ≤ c := by
    unfold dividerCycles
    omega
  rw [cfgRdiv_eq_ok_iff, ← and_assoc, hcycles, and_assoc]
  rfl

/-- A divisor does not deviate exactly when it is the quotient. -/
theorem deviation_le_zero_iff {m t : Rat} {c : Nat} (ht : 0 < t) (hc : 0 < c) :
    |m / c - t| / t * 1000000 ≤ 0 ↔ m / t = c := by
  have hcq : (0 : Rat) < c := Nat.cast_pos.2 hc
  calc |m / c - t| / t * 1000000 ≤ 0
      ↔ |m / c - t| ≤ 0 := by rw [← le_div_iff₀ (by norm_num), zero_div, div_le_iff₀ ht, zero_mul]
    _ ↔ m / c = t := by rw [abs_nonpos_iff, sub_eq_zero]
    _ ↔ m / t = c := by rw [div_eq_iff hcq.ne', div_eq_iff ht.ne', mul_comm]

/-- Settles O25, from O24: a quotient that is a divisor rounds to itself, and it is positive as the frequencies are. -/
theorem zeroToleranceAcceptsIntegerQuotientsOnly : Obligations.ZeroToleranceAcceptsIntegerQuotientsOnly := by
  intro which m t c hm ht
  rw [dividerBuiltIffRoundedDivisorWithinTolerance which m t 0 c hm ht]
  constructor
  · rintro ⟨-, hpos, hdev⟩
    exact (deviation_le_zero_iff ht hpos).1 hdev
  · intro hquot
    have hpos : 0 < c := Nat.cast_pos.1 (hquot ▸ div_pos hm ht)
    exact ⟨by rw [hquot]; exact_mod_cast roundHalfEven_intCast c, hpos, (deviation_le_zero_iff ht hpos).2 hquot⟩

end Sys2Proof.Machine

namespace Sys2Proof.Machine

/-! ## The phase of the oscillator (R147 to R151) -/

theorem State.inputAt_afterTick (s : State) (j : Nat) : s.afterTick.inputAt j = s.inputAt (j + 1) := by
  have htick : s.tick + 1 + j = s.tick + (j + 1) := by omega
  simp [State.inputAt, State.afterTick, htick]

/-- The inputs of the tick after `j` ticks are those that the machine then sees. -/
theorem State.inp_iterate_afterTick (s : State) (j : Nat) : (State.afterTick^[j] s).inp = s.inputAt j := by
  induction j generalizing s with
  | zero => cases hs : s.stimulus <;> simp [State.inp, State.inputAt, hs]
  | succ j ih => rw [Function.iterate_succ_apply, ih, State.inputAt_afterTick]

/-- One tick moves the phase by the increment when the consumer accepts, and not at all when it does not. -/
theorem State.phaseAfter_modEq (s : State) :
    s.phaseAfter ≡ s.regs.phase + (if s.inp.ncoReady then s.inp.phaseIncrement else 0) [MOD 2 ^ s.par.phiBits] := by
  unfold State.phaseAfter
  split
  · exact (Nat.mod_modEq _ _).trans ((Nat.mod_modEq _ _).add_left _)
  · rfl

theorem State.phase_iterate_modEq (s : State) (k : Nat) :
    (State.afterTick^[k] s).regs.phase ≡ s.regs.phase + ∑ j ∈ Finset.range k,
      (if (s.inputAt j).ncoReady then (s.inputAt j).phaseIncrement else 0) [MOD 2 ^ s.par.phiBits] := by
  induction k with
  | zero => rfl
  | succ k ih =>
    have hstep := (State.afterTick^[k] s).phaseAfter_modEq
    rw [s.iterate_afterTick_par k, s.inp_iterate_afterTick k] at hstep
    rw [Function.iterate_succ_apply', Finset.sum_range_succ, ← Nat.add_assoc]
    exact hstep.trans (ih.add_right _)

theorem State.Ok.phase_lt {s : State} (h : s.Ok) : s.regs.phase < 2 ^ s.par.phiBits := by
  obtain ⟨-, -, -, hphase, -⟩ := h
  exact hphase

/-- Settles O29: a phase in range is its own residue. -/
theorem phaseIsTheSumOfAcceptedIncrements : Obligations.PhaseIsTheSumOfAcceptedIncrements := by
  intro s k hs
  have hlt := (hs.iterate_afterTick k).phase_lt
  rw [s.iterate_afterTick_par k] at hlt
  exact ⟨_, hs.ran_eq k, (Nat.mod_eq_of_lt hlt).symm.trans (s.phase_iterate_modEq k)⟩

theorem add_mod_eq_self_iff_dvd {n a c : Nat} (ha : a < n) : (a + c) % n = a ↔ n ∣ c := by
  conv_lhs => rhs; rw [← Nat.mod_eq_of_lt ha]
  exact Nat.add_modEq_left_iff

/-- R150: after `k` accepted advances by `d` the phase is back exactly when `2^PHI_BITS` divides `k * d`. -/
theorem State.Ok.exists_ran_phase_eq_iff {s : State} (hs : s.Ok) {k d : Nat}
    (hadv : ∀ j < k, (s.inputAt j).ncoReady = true ∧ (s.inputAt j).phaseIncrement = d) :
    ∃ t, s.ran k = some t ∧ (t.regs.phase = s.regs.phase ↔ 2 ^ s.par.phiBits ∣ k * d) := by
  obtain ⟨t, hran, hphase⟩ := phaseIsTheSumOfAcceptedIncrements s k hs
  have hsum : (∑ j ∈ Finset.range k, if (s.inputAt j).ncoReady then (s.inputAt j).phaseIncrement else 0) = k * d := by
    rw [Finset.sum_const_nat (m := d), Finset.card_range]
    intro j hj
    obtain ⟨hready, hinc⟩ := hadv j (Finset.mem_range.1 hj)
    rw [if_pos hready, hinc]
  rw [hsum] at hphase
  exact ⟨t, hran, hphase ▸ add_mod_eq_self_iff_dvd hs.phase_lt⟩

/-- Settles O30, by what the two numbers of advances make of `2^PHI_BITS ∣ k * d`. -/
theorem phaseReturnsAsTheIncrementDivides : Obligations.PhaseReturnsAsTheIncrementDivides := by
  intro s k d hs hadv
  obtain ⟨t, hran, hback⟩ := hs.exists_ran_phase_eq_iff hadv
  obtain ⟨⟨-, -, hbits, -⟩, -⟩ := hs
  constructor
  · rintro rfl
    refine ⟨t, hran, hback.trans ?_⟩
    rw [← Nat.add_sub_cancel' hbits, pow_add, Nat.add_sub_cancel_left]
    exact Nat.mul_dvd_mul_iff_left (Nat.two_pow_pos _)
  · rintro rfl
    refine ⟨t, hran, hback.2 ?_⟩
    rw [Nat.div_mul_right_comm (Nat.gcd_dvd_right ..), Nat.mul_div_assoc _ (Nat.gcd_dvd_left ..)]
    exact dvd_mul_right ..

/-- Settles O27: the control word of the block is the bit `out_ready` (R102). -/
theorem oscillatorOperations : Obligations.OscillatorOperations := by
  refine ⟨rfl, rfl, fun s hready => ?_, fun s hready => ?_⟩
  · have hword : s.controlWord .nco = some Instr.ncoAdvance.encode := by rw [State.controlWord, hready]; rfl
    exact State.perform_of_selected hword
  · have hword : s.controlWord .nco = some Instr.ncoHold.encode := by rw [State.controlWord, hready]; rfl
    exact State.perform_of_selected hword

/-! ## CFG.TABLE (R141) -/

/-- A search for the largest natural number not above a real answers its floor. -/
theorem searchLargest_eq_floor {ok : Nat → Bool} {n : Nat} {y : ℝ} (hok : ∀ t : Nat, ok t = true ↔ (t : ℝ) ≤ y)
    (hnonneg : 0 ≤ y) (hlt : y < 2 ^ n) : searchLargest ok n 0 = ⌊y⌋₊ := by
  have hanti (u v : Nat) (huv : u ≤ v) (hv : ok v = true) : ok u = true :=
    (hok u).2 ((Nat.cast_le.2 huv).trans ((hok v).1 hv))
  have hzero : ok 0 = true := (hok 0).2 (by rwa [Nat.cast_zero])
  have hrange : ⌊y⌋₊ < 2 ^ n := (Nat.floor_lt hnonneg).2 (by exact_mod_cast hlt)
  obtain ⟨-, -, hfits, -⟩ := searchLargest_spec ok hanti n 0 hzero
  apply le_antisymm
  · exact Nat.le_floor ((hok _).1 hfits)
  · exact (le_searchLargest_iff ok hanti n hzero _ hrange).2 ((hok _).2 (Nat.floor_le hnonneg))

/-- The full scale of an entry, times the denominator of GAIN: the `q` of the comparisons with `q * cos`. -/
def fullScale (n : Nat) (gain : Rat) : Nat := (2 ^ n - 1) * gain.num.toNat

theorem fullScale_cast (n : Nat) {gain : Rat} (hgain : 0 ≤ gain) :
    (fullScale n gain : ℝ) = (2 ^ n - 1) * gain * gain.den := by
  have hnum : ((gain.num.toNat : Nat) : ℝ) = gain.num := by
    exact_mod_cast Int.toNat_of_nonneg (Rat.num_nonneg.2 hgain)
  have hquot : (gain : ℝ) * gain.den = gain.num := by exact_mod_cast Rat.mul_den_eq_num gain
  rw [fullScale, Nat.cast_mul, Nat.cast_sub Nat.one_le_two_pow, hnum, mul_assoc, hquot]
  push_cast
  rfl

/-- A part `u` of the full scale of n bits, times GAIN, is a number of n bits. -/
theorem scaled_mem_Ico {n : Nat} {u g : ℝ} (hu : u ∈ Set.Icc 0 1) (hg : g ∈ Set.Icc 0 1) :
    u * (2 ^ n - 1) * g ∈ Set.Ico 0 (2 ^ n) := by
  obtain ⟨hu0, hu1⟩ := hu
  obtain ⟨hg0, hg1⟩ := hg
  have hfull : (0 : ℝ) ≤ 2 ^ n - 1 := sub_nonneg.2 (one_le_pow₀ one_le_two)
  refine ⟨by positivity, ?_⟩
  calc u * (2 ^ n - 1) * g ≤ 1 * (2 ^ n - 1) * 1 := by gcongr
    _ < 2 ^ n := by linarith

/-- The search behind an entry: a condition `t * den <= u * q` on the candidates finds the part `u` of the full
scale, times GAIN, rounded down. -/
theorem entrySearch_eq_floor {n : Nat} {gain : Rat} {u : ℝ} {ok : Nat → Bool} (hgain0 : 0 ≤ gain) (hgain1 : gain ≤ 1)
    (hu : u ∈ Set.Icc 0 1)
    (hok : 0 < fullScale n gain → ∀ t : Nat, ok t = true ↔ (t : ℝ) * gain.den ≤ u * fullScale n gain) :
    (if fullScale n gain = 0 then 0 else searchLargest ok n 0) = ⌊u * (2 ^ n - 1) * gain⌋₊ := by
  have hden : (0 : ℝ) < gain.den := Nat.cast_pos.2 gain.den_pos
  have hvalue : u * (2 ^ n - 1) * gain * gain.den = u * fullScale n gain := by
    rw [fullScale_cast n hgain0]
    ring
  split
  · next hzero =>
    rw [hzero, Nat.cast_zero, mul_zero] at hvalue
    rw [(mul_eq_zero_iff_right hden.ne').1 hvalue, Nat.floor_zero]
  · next hne =>
    obtain ⟨hnonneg, hlt⟩ := scaled_mem_Ico (n := n) hu
      (show (gain : ℝ) ∈ Set.Icc 0 1 from ⟨by exact_mod_cast hgain0, by exact_mod_cast hgain1⟩)
    refine searchLargest_eq_floor (fun t => ?_) hnonneg hlt
    rw [hok (Nat.pos_of_ne_zero hne) t, ← hvalue, mul_le_mul_iff_left₀ hden]

/-! ### Signed entries -/

/-- The entry that `tableEntrySigned` searches for where the cosine is not negative. -/
def tableMagnitude (b k : Nat) (gain : Rat) (j : Nat) : Nat :=
  if fullScale (b - 1) gain = 0 then 0
  else searchLargest (fun t => cosAtLeast k j ((t * gain.den : Nat) : Int) (fullScale (b - 1) gain)) (b - 1) 0

theorem tableEntrySigned_eq (b k : Nat) (gain : Rat) (i : Nat) : tableEntrySigned b k gain i =
    if cosNegative k i then -(tableMagnitude b k gain (i + 2 ^ (k - 1)) : Int) else (tableMagnitude b k gain i : Int) :=
  rfl

theorem tableMagnitude_eq_floor (b : Nat) {k j : Nat} {gain : Rat} (hgain0 : 0 ≤ gain) (hgain1 : gain ≤ 1)
    (hcos : 0 ≤ Real.cos (turn k j)) :
    tableMagnitude b k gain j = ⌊Real.cos (turn k j) * (2 ^ (b - 1) - 1) * gain⌋₊ := by
  refine entrySearch_eq_floor hgain0 hgain1 ⟨hcos, Real.cos_le_one _⟩ fun hfull t => ?_
  rw [cosAtLeast_iff hfull, mul_comm (Real.cos _)]
  push_cast
  rfl

/-- Over one period, told in quarter turns, the cosine is negative strictly between the first and the third. -/
theorem cos_quarters_neg_iff {r : ℝ} (hr0 : 0 ≤ r) (hr4 : r < 4) :
    Real.cos (Real.pi / 2 * r) < 0 ↔ 1 < r ∧ r < 3 := by
  have hpi := Real.pi_pos
  constructor
  · intro hneg
    by_contra hout
    refine hneg.not_ge ?_
    rcases not_and_or.1 hout with hlow | hhigh
    · exact Real.cos_nonneg_of_neg_pi_div_two_le_of_le (by nlinarith) (by nlinarith)
    · rw [← Real.cos_sub_two_pi]
      exact Real.cos_nonneg_of_neg_pi_div_two_le_of_le (by nlinarith) (by nlinarith)
  · rintro ⟨hlow, hhigh⟩
    exact Real.cos_neg_of_pi_div_two_lt_of_lt (by nlinarith) (by nlinarith)

/-- `cosNegative` is where the cosine is negative. -/
theorem cosNegative_iff {k i : Nat} : cosNegative k i = true ↔ Real.cos (turn k i) < 0 := by
  rw [← cos_turn_mod, cosNegative, decide_eq_true_eq]
  have hlt : i % 2 ^ k < 2 ^ k := Nat.mod_lt _ (Nat.two_pow_pos k)
  generalize i % 2 ^ k = j at hlt ⊢
  have hpow : (0 : ℝ) < 2 ^ k := by positivity
  have hturn : turn k j = Real.pi / 2 * (4 * j / 2 ^ k) := by
    unfold turn
    ring
  have hperiod : (4 * j / 2 ^ k : ℝ) < 4 := by
    rw [div_lt_iff₀ hpow]
    exact_mod_cast Nat.mul_lt_mul_of_pos_left hlt four_pos
  rw [hturn, cos_quarters_neg_iff (by positivity) hperiod, one_lt_div hpow, div_lt_iff₀ hpow]
  norm_cast

theorem cos_turn_add_half {k : Nat} (hk : 0 < k) (i : Nat) :
    Real.cos (turn k (i + 2 ^ (k - 1))) = -Real.cos (turn k i) := by
  have hpow : (2 : ℝ) * 2 ^ (k - 1) = 2 ^ k := mul_pow_sub_one hk.ne' 2
  have hturn : turn k (i + 2 ^ (k - 1)) = turn k i + Real.pi := by
    unfold turn
    rw [← hpow]
    push_cast
    field_simp
  rw [hturn, Real.cos_add_pi]

/-- `trunc` of R141: toward zero (D4). -/
noncomputable def truncToZero (x : ℝ) : ℤ := if 0 ≤ x then ⌊x⌋ else ⌈x⌉

theorem truncToZero_of_nonneg {x : ℝ} (h : 0 ≤ x) : truncToZero x = ⌊x⌋₊ := by
  rw [truncToZero, if_pos h, Int.natCast_floor_eq_floor h]

theorem truncToZero_neg {x : ℝ} (h : 0 ≤ x) : truncToZero (-x) = -⌊x⌋₊ := by
  rw [Int.natCast_floor_eq_floor h, truncToZero]
  split
  · next hneg =>
    have hzero : x = 0 := le_antisymm (neg_nonneg.1 hneg) h
    simp [hzero]
  · exact Int.ceil_neg

theorem tableEntrySigned_eq_truncToZero (b k i : Nat) {gain : Rat} (hgain0 : 0 ≤ gain) (hgain1 : gain ≤ 1) :
    tableEntrySigned b k gain i = truncToZero (Real.cos (turn k i) * (2 ^ (b - 1) - 1) * gain) := by
  have hrange {j : Nat} (hcos : 0 ≤ Real.cos (turn k j)) : 0 ≤ Real.cos (turn k j) * (2 ^ (b - 1) - 1) * gain :=
    (scaled_mem_Ico ⟨hcos, Real.cos_le_one _⟩ ⟨by exact_mod_cast hgain0, by exact_mod_cast hgain1⟩).1
  rw [tableEntrySigned_eq]
  split
  · next hneg =>
    have hk : 0 < k := Nat.pos_of_ne_zero fun hzero => by simp [cosNegative, hzero, Nat.mod_one] at hneg
    have hhalf := cos_turn_add_half hk i
    have hcos : 0 ≤ Real.cos (turn k (i + 2 ^ (k - 1))) := by linarith [cosNegative_iff.1 hneg]
    rw [tableMagnitude_eq_floor b hgain0 hgain1 hcos, ← truncToZero_neg (hrange hcos), hhalf]
    simp only [neg_mul, neg_neg]
  · next hpos =>
    have hcos : 0 ≤ Real.cos (turn k i) := not_lt.1 (mt cosNegative_iff.2 hpos)
    rw [tableMagnitude_eq_floor b hgain0 hgain1 hcos, truncToZero_of_nonneg (hrange hcos)]

/-! ### Unsigned entries -/

theorem tableEntryUnsigned_eq (b k : Nat) (gain : Rat) (i : Nat) : tableEntryUnsigned b k gain i =
    if fullScale b gain = 0 then 0
    else searchLargest
      (fun t => cosAtLeast k i (((2 * t * gain.den : Nat) : Int) - (fullScale b gain : Int)) (fullScale b gain)) b 0 :=
  rfl

theorem tableEntryUnsigned_eq_floor (b k i : Nat) {gain : Rat} (hgain0 : 0 ≤ gain) (hgain1 : gain ≤ 1) :
    (tableEntryUnsigned b k gain i : ℤ) = ⌊(Real.cos (turn k i) + 1) / 2 * (2 ^ b - 1) * gain⌋ := by
  have hlow := Real.neg_one_le_cos (turn k i)
  have hhigh := Real.cos_le_one (turn k i)
  have hpart : (Real.cos (turn k i) + 1) / 2 ∈ Set.Icc (0 : ℝ) 1 := ⟨by linarith, by linarith⟩
  have hentry : tableEntryUnsigned b k gain i = ⌊(Real.cos (turn k i) + 1) / 2 * (2 ^ b - 1) * gain⌋₊ := by
    rw [tableEntryUnsigned_eq]
    refine entrySearch_eq_floor hgain0 hgain1 hpart fun hfull t => ?_
    rw [cosAtLeast_iff hfull]
    push_cast
    constructor <;> intro h <;> linarith
  rw [hentry]
  exact Int.natCast_floor_eq_floor
    (scaled_mem_Ico hpart ⟨by exact_mod_cast hgain0, by exact_mod_cast hgain1⟩).1

/-! ### The table of a constructed machine (R345) -/

theorem patternOf_cast (n : Nat) (v : Int) : (patternOf n v : ℤ) = v % 2 ^ n :=
  Int.toNat_of_nonneg (Int.emod_nonneg v (by positivity))

theorem bits_of_checkDepth {cfg : Config} {d : BitDepth} (h : checkDepth cfg = .ok d) : d.bits = cfg.bitDepth := by
  unfold checkDepth at h
  split_ifs at h with h8 h16 h24 h32 <;> cases h
  · exact h8.symm
  · exact h16.symm
  · exact h24.symm
  · exact h32.symm

theorem cfgTable_getElem? (b : Nat) {k i : Nat} (gain : Rat) (signed : Bool) (hi : i < 2 ^ k) :
    (cfgTable b k gain signed)[i]? =
      some (if signed then patternOf b (tableEntrySigned b k gain i) else tableEntryUnsigned b k gain i) := by
  simp [cfgTable, hi]

/-- A constructed machine holds the table of its configuration, whose parameters are those that R304 demands. -/
theorem table_of_construct {cfg : Config} {s : State} (h : construct cfg = .ok s) :
    s.par.table = cfgTable cfg.bitDepth cfg.tableLength.log2 cfg.gain cfg.signed ∧
      2 ^ cfg.tableLength.log2 = cfg.tableLength ∧ 0 ≤ cfg.gain ∧ cfg.gain ≤ 1 := by
  obtain ⟨p, hp, rfl⟩ := construct_eq_ok_iff.1 h
  obtain ⟨d, hdepth, hcheck, cs, -, -, -, cp, -, -, -, -, rfl⟩ := setupParams_eq_ok_iff.1 hp
  obtain ⟨hlen, -, ⟨hgain0, hgain1⟩, -⟩ := checkParams_eq_ok_iff.1 hcheck
  refine ⟨?_, hlen, hgain0, hgain1⟩
  rw [← bits_of_checkDepth hdepth]
  rfl

/-- Settles O31: the integer method searches with the comparison of R141, and construction stores what it finds. -/
theorem tableEntriesAreTruncatedCosines : Obligations.TableEntriesAreTruncatedCosines := by
  refine ⟨fun b k i gain _ hgain0 hgain1 _ => ?_, fun cfg s h => ?_⟩
  · exact ⟨⟨_, rfl, tableEntrySigned_eq_truncToZero b k i hgain0 hgain1⟩,
      ⟨_, rfl, tableEntryUnsigned_eq_floor b k i hgain0 hgain1⟩⟩
  · obtain ⟨htable, hlen, hgain0, hgain1⟩ := table_of_construct h
    have hcast : (cfg.tableLength : ℝ) = 2 ^ cfg.tableLength.log2 := by exact_mod_cast hlen.symm
    rw [htable, cfgTable_length, hcast]
    refine ⟨hlen, fun i hi => ⟨_, cfgTable_getElem? _ _ _ (hi.trans_eq hlen.symm), fun hsigned => ⟨_, rfl, ?_⟩,
      fun hunsigned => ⟨_, rfl, ?_⟩⟩⟩
    · rw [if_pos hsigned, patternOf_cast, tableEntrySigned_eq_truncToZero _ _ _ hgain0 hgain1]
      rfl
    · rw [if_neg (by simp [hunsigned])]
      exact tableEntryUnsigned_eq_floor _ _ _ hgain0 hgain1

end Sys2Proof.Machine

namespace Sys2Proof.Machine

/-! ## The demultiplexer (42_stream_demux.md)

### Its ports (R172, R179, R180) -/

theorem State.perChannel_false (s : State) : s.perChannel (fun _ => false) = List.replicate s.par.channels false := by
  simp [State.perChannel]

/-- A tick without an emission shows no `out_valid[c]`, no handoff and the sample 0. -/
theorem State.driveDmx_none (s : State) (inReady violation : Bool) :
    s.driveDmx inReady none violation = { s with
      out := demuxSilent s.out s.par.channels inReady (s.inp.dmxValid && inReady) violation } := by
  have hhandoff : (s.perChannel fun c => (List.replicate s.par.channels false).getD c false && s.dmxReady c) =
      List.replicate s.par.channels false := by
    rw [← s.perChannel_false]
    exact State.perChannel_congr rfl fun c hc => by rw [s.perChannel_getD _ _ hc, Bool.false_and]
  simp only [State.driveDmx, Option.any_none, Option.map_none, Option.getD_none, s.perChannel_false, hhandoff]

/-- A tick that emits shows the sample to one channel, which takes it if it is ready. -/
theorem State.driveDmx_some {s : State} (hvalid : s.inp.dmxValid = true) (ch : Nat) (v : Pattern) :
    s.driveDmx true (some (ch, v)) false = { s with out := demuxEmits s.out s.dmxReady s.par.channels ch v } := by
  have hhandoff : (s.perChannel fun c => (s.perChannel fun c => ch == c).getD c false && s.dmxReady c) =
      s.perChannel fun c => ch == c && s.dmxReady c :=
    State.perChannel_congr rfl fun c hc => by rw [s.perChannel_getD _ _ hc]
  simp only [State.driveDmx, Option.any_some, Option.map_some, Option.getD_some, hhandoff, hvalid, Bool.and_true]
  rfl

/-! ### Its inputs (R171) -/

theorem State.go_eq_true_iff {s : State} : s.go = true ↔ s.inp.dmxValid = true ∧ s.anyReady = true := by
  rw [State.go, Bool.and_eq_true]

theorem State.anyReady_of_allReady {s : State} (hc : 1 ≤ s.par.channels) (h : AllReady s.inp s.par.channels) :
    s.anyReady = true :=
  List.any_eq_true.2 ⟨true, State.mem_perChannel.2 ⟨0, hc, h 0 hc⟩, rfl⟩

/-- With SUB as long as R42 has it, a completed subframe is what SUB holds and the byte on the input. -/
theorem State.subframe_eq {s : State} (h : s.regs.sub.length = s.par.subslot - 1) :
    s.subframe = s.regs.sub ++ [s.inp.dmxByte] := by
  rw [State.subframe, ← h]
  congr 1
  exact List.ext_getElem (by simp) fun i hi hi' => by simp [hi']

theorem State.inError_of_byte {s : State} {k : Fin 4} (h : s.regs.dstate = .byte k) : s.inError = false := by
  simp [State.inError, h]

theorem State.inError_of_error {s : State} (h : s.regs.dstate = .error) : s.inError = true := by
  simp [State.inError, h]

/-- The control word at a byte position that exists, with a byte to take. -/
theorem State.controlWord_dmx_byte {s : State} {k : Fin 4} (hst : s.regs.dstate = .byte k) (hk : k.val < s.par.subslot)
    (hgo : s.go = true) : s.controlWord .dmx =
      some (packBits [false, k.val == s.par.subslot - 1, k.val == 0, true, s.inp.dmxFirst]) :=
  State.controlWord_dmx (by rw [hst]; exact Params.dstateReachable_byte.2 hk) (State.inError_of_byte hst)
    (State.atByte_of_byte hst _) (State.atByte_of_byte hst _) hgo rfl

/-- The same past the first byte. -/
theorem State.controlWord_dmx_middle {s : State} {k : Fin 4} (hst : s.regs.dstate = .byte k) (hpos : 0 < k.val)
    (hk : k.val < s.par.subslot) (hgo : s.go = true) : s.controlWord .dmx =
      some (packBits [false, k.val == s.par.subslot - 1, false, true, s.inp.dmxFirst]) := by
  rw [State.controlWord_dmx_byte hst hk hgo, beq_false_of_ne hpos.ne']

/-! ### The channel of the byte on the input (R174) -/

/-- The channel of the subframe that starts with the byte on the input. -/
def State.startChannel (s : State) : Nat := if s.inp.dmxFirst then 0 else (s.regs.chan + 1) % s.par.channels

/-- The channel that the byte on the input belongs to as byte `k` of its subframe. -/
def State.byteChannel (s : State) (k : Nat) : Nat := if k = 0 then s.startChannel else s.regs.chan

/-! ### The operations (R173 to R178) -/

theorem State.startSubframe_eq {s : State} (hvalid : s.inp.dmxValid = true) (ch : Nat) :
    s.startSubframe ch = { s with
      next := { s.next with chan := ch, sub := s.regs.sub.set 0 s.inp.dmxByte, dstate := .byte 1 }
      out := demuxSilent s.out s.par.channels true true false } := by
  rw [State.startSubframe, State.driveDmx_none, hvalid]
  rfl

theorem exec_dmxHold {s : State} (hd : s.par.dstateReachable s.regs.dstate = true) (hgo : s.go = false) :
    exec (.dmxHold s.inError (s.atByte (s.par.subslot - 1)) (s.atByte 0) s.inp.dmxFirst) s =
      .next (s.driveDmx s.anyReady none false) := by
  have hword := State.controlWord_dmx hd rfl rfl rfl hgo rfl
  exact State.perform_of_selected hword

theorem exec_dmxStart {s : State} (hst : s.regs.dstate = .byte 0) (hgo : s.go = true) :
    exec (.dmxStart (0 == s.par.subslot - 1) s.inp.dmxFirst) s = .next
      (if s.par.subslot = 1 then
        (s.driveDmx true (some (s.startChannel, s.inp.dmxByte.toNat)) false).write fun n =>
          { n with chan := s.startChannel, dstate := .byte 0 }
      else s.startSubframe s.startChannel) := by
  have hword := State.controlWord_dmx_byte hst s.par.subslot_pos hgo
  exact State.perform_of_selected hword

/-- Settles O32: the channel that DMX.START takes is the same whether the byte is stored or emitted. -/
theorem demuxHoldAndStartOperations : Obligations.DemuxHoldAndStartOperations := by
  refine ⟨by decide, fun s hd hgo => ?_, fun s hst hsize hgo => ?_, fun s hst hsize hgo => ?_⟩
  · have hconsumed : (s.inp.dmxValid && s.anyReady) = false := hgo
    rw [exec_dmxHold hd hgo, State.driveDmx_none, hconsumed]
  · obtain ⟨hvalid, -⟩ := State.go_eq_true_iff.1 hgo
    have hlast : (0 == s.par.subslot - 1) = false := beq_false_of_ne (by omega)
    have hexec := exec_dmxStart hst hgo
    rwa [hlast, if_neg hsize.ne', State.startSubframe_eq hvalid] at hexec
  · obtain ⟨hvalid, -⟩ := State.go_eq_true_iff.1 hgo
    have hlast : (0 == s.par.subslot - 1) = true := by rw [hsize]; rfl
    have hexec := exec_dmxStart hst hgo
    rwa [hlast, if_pos hsize, State.driveDmx_some hvalid] at hexec

/-- Settles O33: past the first byte, `l` alone tells the last one from those between. -/
theorem demuxMidAndLastOperations : Obligations.DemuxMidAndLastOperations := by
  refine ⟨rfl, rfl, fun s k hst hpos hk hgo hfirst => ?_, fun s k hst hpos hk hlen hgo hfirst => ?_⟩
  · obtain ⟨hvalid, -⟩ := State.go_eq_true_iff.1 hgo
    have hword := State.controlWord_dmx_middle hst hpos (by omega) hgo
    rw [beq_false_of_ne hk.ne, hfirst] at hword
    have hexec : exec .dmxMid s = .next _ := State.perform_of_selected hword
    rw [hexec, hst, State.driveDmx_none, hvalid]
    rfl
  · obtain ⟨hvalid, -⟩ := State.go_eq_true_iff.1 hgo
    have hword := State.controlWord_dmx_middle hst hpos (by omega) hgo
    rw [beq_iff_eq.2 hk, hfirst] at hword
    have hexec : exec .dmxLast s = .next _ := State.perform_of_selected hword
    rw [hexec, State.driveDmx_some hvalid, State.subframe_eq hlen]
    rfl

/-- Settles O34: DMX.RESYNC is the start of a subframe of channel 0. -/
theorem demuxViolateAndResyncOperations : Obligations.DemuxViolateAndResyncOperations := by
  refine ⟨by decide, fun s k hst hpos hk hgo hfirst => ?_, fun s hst hsize hgo => ?_⟩
  · have hword := State.controlWord_dmx_middle hst hpos hk hgo
    rw [hfirst] at hword
    have hexec : exec (.dmxViolate (k.val == s.par.subslot - 1)) s = .next s.raiseFramingViolation :=
      State.perform_of_selected hword
    rw [hexec, State.raiseFramingViolation, State.driveDmx_none, Bool.and_false]
    rfl
  · obtain ⟨hvalid, -⟩ := State.go_eq_true_iff.1 hgo
    have hword := State.controlWord_dmx (hst ▸ Params.dstateReachable_error.2 hsize) (State.inError_of_error hst)
      (State.atByte_of_error hst _) (State.atByte_of_error hst _) hgo rfl
    have hexec : exec (.dmxResync false false s.inp.dmxFirst) s = .next (s.startSubframe 0) :=
      State.perform_of_selected hword
    rw [hexec, State.startSubframe_eq hvalid]

end Sys2Proof.Machine

namespace Sys2Proof.Machine

/-! ## Ticks of the demultiplexer (R182)

### The rows of the transition table

A byte that is taken in BYTEk belongs to channel `byteChannel k`: it is stored when more bytes are to come, and
completes the subframe when none is. With S = 1 the first byte is the last one too (R183). -/

theorem State.dmxRow_of_not_go {s : State} (hgo : s.go = false) : s.dmxRow =
    { dstate := s.regs.dstate, chan := s.regs.chan, sub := s.regs.sub, inReady := s.anyReady, emit := none,
      violation := false } := by
  rw [State.dmxRow, if_pos hgo]

theorem State.dmxRow_of_error {s : State} (hst : s.regs.dstate = .error) (hgo : s.go = true) : s.dmxRow =
    { dstate := .byte 1, chan := 0, sub := s.regs.sub.set 0 s.inp.dmxByte, inReady := true, emit := none,
      violation := false } := by
  simp only [State.dmxRow, hst, hgo, Bool.true_eq_false, if_false]

theorem State.dmxRow_of_violation {s : State} {k : Fin 4} (hst : s.regs.dstate = .byte k) (hpos : 0 < k.val)
    (hgo : s.go = true) (hfirst : s.inp.dmxFirst = true) : s.dmxRow =
    { dstate := .error, chan := s.regs.chan, sub := s.regs.sub, inReady := false, emit := none,
      violation := true } := by
  simp only [State.dmxRow, hst, hgo, hfirst, hpos.ne', Bool.true_eq_false, if_false, if_true]

theorem State.dmxRow_of_store {s : State} {k : Fin 4} (hst : s.regs.dstate = .byte k) (hk : k.val + 1 < s.par.subslot)
    (hgo : s.go = true) (hmark : k.val = 0 ∨ s.inp.dmxFirst = false) : s.dmxRow =
    { dstate := .byte (k + 1), chan := s.byteChannel k, sub := s.regs.sub.set k s.inp.dmxByte, inReady := true,
      emit := none, violation := false } := by
  by_cases hzero : k.val = 0
  · obtain rfl : k = 0 := Fin.ext hzero
    have hsize : s.par.subslot ≠ 1 := by omega
    simp only [State.dmxRow, hst, hgo, hsize, Fin.val_zero, Bool.true_eq_false, if_false, if_true]
    rfl
  · have hlast : k.val ≠ s.par.subslot - 1 := by omega
    simp only [State.dmxRow, State.byteChannel, hst, hgo, hzero, hlast, hmark.resolve_left hzero, Bool.true_eq_false,
      Bool.false_eq_true, if_false]

/-- A subframe of one byte is its sample (R92). -/
theorem State.assemble_subframe_of_single {s : State} (h : s.par.subslot = 1) :
    assemble s.par.depth s.subframe = s.inp.dmxByte.toNat := by
  have hdepth : s.par.depth = .d8 := by
    unfold Params.subslot at h
    cases hd : s.par.depth <;> simp_all [BitDepth.subslot]
  obtain ⟨hsingle, -⟩ := assemblyDropsThePaddingByte
  rw [State.subframe, h, hdepth]
  exact hsingle s.inp.dmxByte

theorem State.dmxRow_of_complete {s : State} {k : Fin 4} (hst : s.regs.dstate = .byte k)
    (hk : k.val + 1 = s.par.subslot) (hgo : s.go = true) (hmark : k.val = 0 ∨ s.inp.dmxFirst = false) : s.dmxRow =
    { dstate := .byte 0, chan := s.byteChannel k, sub := s.regs.sub, inReady := true,
      emit := some (s.byteChannel k, assemble s.par.depth s.subframe), violation := false } := by
  by_cases hzero : k.val = 0
  · have hsize : s.par.subslot = 1 := by omega
    rw [State.assemble_subframe_of_single hsize]
    simp only [State.dmxRow, State.byteChannel, hst, hgo, hzero, hsize, Bool.true_eq_false, if_false, if_true]
    rfl
  · have hlast : k.val = s.par.subslot - 1 := by omega
    simp only [State.dmxRow, State.byteChannel, hst, hgo, hzero, ← hlast, hmark.resolve_left hzero,
      Bool.true_eq_false, Bool.false_eq_true, if_false, if_true]

/-! ### What a tick goes by, and what it leaves -/

theorem State.anyReady_congr {s u : State} (hpar : s.par = u.par) (hready : s.inp.dmxReady = u.inp.dmxReady) :
    s.anyReady = u.anyReady := by
  have hports : s.dmxReady = u.dmxReady := by
    funext c
    rw [State.dmxReady, hready]
    rfl
  rw [State.anyReady, State.perChannel, hpar, hports]
  rfl

theorem State.go_congr {s u : State} (hpar : s.par = u.par) (hinp : s.inp = u.inp) : s.go = u.go := by
  rw [State.go, State.anyReady_congr hpar (by rw [hinp]), hinp]
  rfl

@[simp] theorem State.afterTick_dstate (s : State) : s.afterTick.regs.dstate = s.dmxRow.dstate := rfl
@[simp] theorem State.afterTick_chan (s : State) : s.afterTick.regs.chan = s.dmxRow.chan := rfl
@[simp] theorem State.afterTick_sub (s : State) : s.afterTick.regs.sub = s.dmxRow.sub := rfl

/-! ### Emissions (R179, R180, R351) -/

/-- A tick emits nothing, or it takes a byte and emits on the channel that CHAN then holds. -/
theorem State.dmxRow_emit {s : State} (hd : s.par.dstateReachable s.regs.dstate = true) :
    s.dmxRow.emit = none ∨ s.go = true ∧ ∃ v, s.dmxRow.emit = some (s.dmxRow.chan, v) := by
  cases hgo : s.go with
  | false => exact .inl (by rw [State.dmxRow_of_not_go hgo])
  | true =>
    cases hst : s.regs.dstate with
    | error => exact .inl (by rw [State.dmxRow_of_error hst hgo])
    | byte k =>
      rw [hst, Params.dstateReachable_byte] at hd
      by_cases hmark : k.val = 0 ∨ s.inp.dmxFirst = false
      · obtain hk | hk : k.val + 1 < s.par.subslot ∨ k.val + 1 = s.par.subslot := by omega
        · exact .inl (by rw [State.dmxRow_of_store hst hk hgo hmark])
        · exact .inr ⟨rfl, _, by rw [State.dmxRow_of_complete hst hk hgo hmark]⟩
      · obtain ⟨hpos, hfirst⟩ := not_or.1 hmark
        exact .inl (by rw [State.dmxRow_of_violation hst (Nat.pos_of_ne_zero hpos) hgo (eq_true_of_ne_false hfirst)])

theorem State.count_perChannel_eq {s : State} {ch : Nat} (hch : ch < s.par.channels) :
    (s.perChannel fun c => ch == c).count true = 1 := by
  have hone := List.count_eq_one_of_mem List.nodup_range (List.mem_range.2 hch)
  rw [State.perChannel, List.count_eq_countP, List.countP_map, ← hone, List.count_eq_countP]
  exact List.countP_congr fun c _ => by simp [eq_comm (a := ch)]

theorem State.Ok.dstateReachable {s : State} (h : s.Ok) : s.par.dstateReachable s.regs.dstate = true := by
  obtain ⟨-, -, -, -, hd, -⟩ := h
  exact hd

theorem State.Ok.dmxRow_chan_lt {s : State} (h : s.Ok) : s.dmxRow.chan < s.par.channels := by
  obtain ⟨-, -, -, -, hd, hchan, -⟩ := h
  obtain ⟨-, hlt, -⟩ := State.dmxRow_inRange hd hchan
  exact hlt

/-- Settles O40: an emission goes to one channel that exists, on a tick with a consumer ready. -/
theorem emissionIsOneHotAndHandedOff : Obligations.EmissionIsOneHotAndHandedOff := by
  intro s t hs hstep
  obtain rfl : s.afterTick = t := Host.Outcome.next.inj (hs.step_eq.symm.trans hstep)
  have hlt := hs.dmxRow_chan_lt
  refine ⟨s.perChannel_length _, ?_⟩
  simp only [State.afterTick, State.outDuring]
  rcases State.dmxRow_emit hs.dstateReachable with hnone | ⟨hgo, v, hsome⟩
  · rw [hnone]
    simp [State.perChannel_false, List.count_replicate]
  · obtain ⟨-, hany⟩ := State.go_eq_true_iff.1 hgo
    rw [hsome]
    have hcount := State.count_perChannel_eq hlt
    refine ⟨hcount.le, fun hzero => absurd (hcount.symm.trans hzero) one_ne_zero, fun htogether => ?_⟩
    exact State.perChannel_congr rfl fun c hc => by rw [htogether c hc, hany, Bool.and_true]

/-! ### Isolation (R21, R170, R200) -/

/-- Two machines agree on the constants and on the demultiplexer's registers. -/
def State.SameDemux (s u : State) : Prop :=
  s.par = u.par ∧ s.regs.dstate = u.regs.dstate ∧ s.regs.chan = u.regs.chan ∧ s.regs.sub = u.regs.sub

/-- Two ticks give the demultiplexer equal inputs. -/
def SameDemuxInputs (x y : Inputs) : Prop :=
  x.dmxValid = y.dmxValid ∧ x.dmxByte = y.dmxByte ∧ x.dmxFirst = y.dmxFirst ∧ x.dmxReady = y.dmxReady

theorem State.SameDemux.dmxRow_eq {s u : State} (h : s.SameDemux u) (hinp : SameDemuxInputs s.inp u.inp) :
    s.dmxRow = u.dmxRow := by
  obtain ⟨hpar, hdstate, hchan, hsub⟩ := h
  obtain ⟨hvalid, hbyte, hfirst, hready⟩ := hinp
  have hany := State.anyReady_congr hpar hready
  have hgo : s.go = u.go := by rw [State.go, hvalid, hany]; rfl
  have hsubframe : s.subframe = u.subframe := by rw [State.subframe, hpar, hsub, hbyte]; rfl
  unfold State.dmxRow
  dsimp only
  rw [hgo, hany, hsubframe, hpar, hdstate, hchan, hsub, hbyte, hfirst]

theorem State.SameDemux.afterTick {s u : State} (h : s.SameDemux u) (hinp : SameDemuxInputs s.inp u.inp) :
    s.afterTick.SameDemux u.afterTick := by
  have hrow := h.dmxRow_eq hinp
  obtain ⟨hpar, -⟩ := h
  exact ⟨hpar, congrArg DmxRow.dstate hrow, congrArg DmxRow.chan hrow, congrArg DmxRow.sub hrow⟩

theorem State.SameDemux.iterate_afterTick {s u : State} (h : s.SameDemux u) {k : Nat}
    (hinp : ∀ j < k, SameDemuxInputs (s.inputAt j) (u.inputAt j)) :
    (State.afterTick^[k] s).SameDemux (State.afterTick^[k] u) := by
  induction k with
  | zero => exact h
  | succ k ih =>
    rw [Function.iterate_succ_apply', Function.iterate_succ_apply']
    refine (ih fun j hj => hinp j (Nat.lt_succ_of_lt hj)).afterTick ?_
    rw [s.inp_iterate_afterTick, u.inp_iterate_afterTick]
    exact hinp k k.lt_succ_self

/-- Settles O15: on the last tick, as on every one, equal registers and inputs select one row of R182. -/
theorem demultiplexerIsIsolated : Obligations.DemultiplexerIsIsolated := by
  intro s u k hs hu hpar hdstate hchan hsub hinp
  have hsame : s.SameDemux u := ⟨hpar, hdstate, hchan, hsub⟩
  obtain ⟨-, hdstate', hchan', hsub'⟩ := hsame.iterate_afterTick hinp
  refine ⟨_, _, hs.ran_eq k, hu.ran_eq k, hdstate', hchan', hsub', fun hk => ?_⟩
  obtain ⟨k, rfl⟩ := Nat.exists_eq_add_one_of_ne_zero hk.ne'
  have hbefore := hsame.iterate_afterTick fun j hj => hinp j (Nat.lt_succ_of_lt hj)
  have hlast : SameDemuxInputs (State.afterTick^[k] s).inp (State.afterTick^[k] u).inp := by
    rw [s.inp_iterate_afterTick, u.inp_iterate_afterTick]
    exact hinp k k.lt_succ_self
  have hrow := hbefore.dmxRow_eq hlast
  obtain ⟨hpar', -⟩ := hbefore
  rw [Function.iterate_succ_apply', Function.iterate_succ_apply']
  simp only [State.afterTick, State.outDuring, State.perChannel, hrow, hpar', and_self]

/-! ### Recovery from a framing violation (R185, R308, R309) -/

/-- Taking a framing violation (R307). -/
theorem State.afterTick_of_violation {s : State} {k : Fin 4} (hst : s.regs.dstate = .byte k) (hpos : 0 < k.val)
    (hgo : s.go = true) (hfirst : s.inp.dmxFirst = true) :
    s.afterTick.regs.dstate = .error ∧ s.afterTick.regs.sub = s.regs.sub := by
  rw [State.afterTick_dstate, State.afterTick_sub, State.dmxRow_of_violation hst hpos hgo hfirst]
  exact ⟨rfl, rfl⟩

/-- Returning from it (R308). -/
theorem State.afterTick_of_error {s : State} (hst : s.regs.dstate = .error) (hgo : s.go = true) :
    s.afterTick.regs.dstate = .byte 1 ∧ s.afterTick.regs.chan = 0 ∧
      s.afterTick.regs.sub = s.regs.sub.set 0 s.inp.dmxByte ∧
      s.afterTick.out.dmxConsumed = true ∧ s.afterTick.out.framingError = false := by
  have hrow := State.dmxRow_of_error hst hgo
  obtain ⟨hvalid, -⟩ := State.go_eq_true_iff.1 hgo
  simp [State.afterTick, State.regsAfter, State.outDuring, hrow, hvalid]

/-- A fresh start: the marked first byte of a subframe of several. -/
theorem State.afterTick_of_markedStart {s : State} (hst : s.regs.dstate = .byte 0) (hsize : 1 < s.par.subslot)
    (hgo : s.go = true) (hfirst : s.inp.dmxFirst = true) :
    s.afterTick.regs.dstate = .byte 1 ∧ s.afterTick.regs.chan = 0 ∧
      s.afterTick.regs.sub = s.regs.sub.set 0 s.inp.dmxByte := by
  have hchan : s.byteChannel 0 = 0 := if_pos hfirst
  rw [State.afterTick_dstate, State.afterTick_chan, State.afterTick_sub,
    State.dmxRow_of_store hst hsize hgo (.inl rfl)]
  exact ⟨rfl, hchan, rfl⟩

/-- Settles O39: in ERROR, as in BYTE0 on a marked beat, the byte starts channel 0's subframe. -/
theorem recoveryEqualsAFreshStart : Obligations.RecoveryEqualsAFreshStart := by
  intro s x xs k hs hstim hst hpos hgo hfirst
  have hinp : s.afterTick.inp = x := by simp [State.inp, State.afterTick, hstim]
  obtain rfl : s.inp = x := by simp [State.inp, hstim]
  have hgo' : s.afterTick.go = true := (State.go_congr (s := s.afterTick) (u := s) rfl hinp).trans hgo
  have hsize : k.val < s.par.subslot := Params.dstateReachable_byte.1 (hst ▸ hs.dstateReachable)
  have hfreshOk : { s with regs := { s.regs with dstate := .byte 0 } }.Ok :=
    ⟨hs.1, hs.2.with_dstate (Params.dstateReachable_byte.2 s.par.subslot_pos)⟩
  obtain ⟨herror, hsub⟩ := State.afterTick_of_violation hst hpos hgo hfirst
  obtain ⟨hst₂, hchan₂, hsub₂, hconsumed, hquiet⟩ := State.afterTick_of_error herror hgo'
  obtain ⟨hst₁, hchan₁, hsub₁⟩ :=
    State.afterTick_of_markedStart (s := { s with regs := { s.regs with dstate := .byte 0 } }) rfl
      (Nat.lt_of_le_of_lt hpos hsize) hgo hfirst
  rw [hsub, hinp] at hsub₂
  exact ⟨_, _, hs.ran_eq 2, hfreshOk.ran_eq 1, hst₂, hchan₂, hsub₂, hst₁, hchan₁, hsub₁.trans hsub₂.symm,
    hconsumed, hquiet⟩

/-! ### Bytes taken one after another (R174 to R176, R181) -/

theorem State.atByte_eq_true_iff {s : State} {j : Nat} :
    s.atByte j = true ↔ ∃ k : Fin 4, s.regs.dstate = .byte k ∧ k.val = j := by
  cases hst : s.regs.dstate with
  | byte k => simp [State.atByte_of_byte hst]
  | error => simp [State.atByte_of_error hst]

/-- A tick that stores byte `j` of a subframe. -/
theorem State.afterTick_of_store {s : State} {j : Nat} (hpos : s.atByte j = true) (hj : j + 1 < s.par.subslot)
    (hgo : s.go = true) (hmark : j = 0 ∨ s.inp.dmxFirst = false) :
    s.afterTick.atByte (j + 1) = true ∧ s.afterTick.regs.chan = s.byteChannel j ∧
      s.afterTick.regs.sub = s.regs.sub.set j s.inp.dmxByte ∧
      s.afterTick.out.dmxOutValid = List.replicate s.par.channels false ∧
      s.afterTick.out.framingError = false := by
  obtain ⟨k, hst, rfl⟩ := State.atByte_eq_true_iff.1 hpos
  have hrow := State.dmxRow_of_store hst hj hgo hmark
  have hsize := s.par.subslot_le_four
  have hnext : (k + 1).val = k.val + 1 := Fin.val_add_one_of_lt' (by omega)
  refine ⟨State.atByte_eq_true_iff.2 ⟨k + 1, congrArg DmxRow.dstate hrow, hnext⟩, congrArg DmxRow.chan hrow,
    congrArg DmxRow.sub hrow, ?_, congrArg DmxRow.violation hrow⟩
  simp only [State.afterTick, State.outDuring, hrow]
  exact s.perChannel_false

/-- A tick that takes the last byte of a subframe. -/
theorem State.afterTick_of_complete {s : State} {j : Nat} (hpos : s.atByte j = true) (hj : j + 1 = s.par.subslot)
    (hgo : s.go = true) (hmark : j = 0 ∨ s.inp.dmxFirst = false) :
    s.afterTick.regs.dstate = .byte 0 ∧ s.afterTick.regs.chan = s.byteChannel j ∧
      s.afterTick.out.dmxOutValid = (List.range s.par.channels).map (fun c => s.byteChannel j == c) ∧
      s.afterTick.out.dmxOutSample = assemble s.par.depth s.subframe ∧
      s.afterTick.out.framingError = false := by
  obtain ⟨k, hst, rfl⟩ := State.atByte_eq_true_iff.1 hpos
  have hrow := State.dmxRow_of_complete hst hj hgo hmark
  refine ⟨congrArg DmxRow.dstate hrow, congrArg DmxRow.chan hrow, ?_, ?_, congrArg DmxRow.violation hrow⟩
  · simp only [State.afterTick, State.outDuring, hrow]
    rfl
  · simp only [State.afterTick, State.outDuring, hrow]
    rfl

theorem State.go_eq_dmxValid {s : State} (hc : 1 ≤ s.par.channels) (h : AllReady s.inp s.par.channels) :
    s.go = s.inp.dmxValid := by
  rw [State.go, State.anyReady_of_allReady hc h, Bool.and_true]

/-- Consumers that are all ready take every sample (R179). -/
theorem State.handoff_of_allReady {s : State} (h : AllReady s.inp s.par.channels) :
    s.afterTick.out.dmxHandoff = s.afterTick.out.dmxOutValid :=
  State.perChannel_congr rfl fun c hc => by rw [State.dmxReady, h c hc, Bool.and_true]

/-! ### A subframe without a gap -/

/-- The bytes stored of a subframe of channel `ch` are the first `j` of `bytes`, and the next byte goes there too. -/
def State.Collected (s : State) (ch : Nat) (bytes : Nat → Byte) (j : Nat) : Prop :=
  s.atByte j = true ∧ s.byteChannel j = ch ∧ ∀ i < j, s.regs.sub.getD i 0 = bytes i

theorem State.Collected.store {s : State} {ch j : Nat} {bytes : Nat → Byte} (h : s.Collected ch bytes j)
    (hlen : s.regs.sub.length = s.par.subslot - 1) (hj : j + 1 < s.par.subslot) (hgo : s.go = true)
    (hmark : j = 0 ∨ s.inp.dmxFirst = false) (hbyte : s.inp.dmxByte = bytes j) :
    s.afterTick.Collected ch bytes (j + 1) ∧
      s.afterTick.out.dmxOutValid = List.replicate s.par.channels false := by
  obtain ⟨hpos, hchan, hsub⟩ := h
  obtain ⟨hpos', hchan', hsub', hquiet, -⟩ := State.afterTick_of_store hpos hj hgo hmark
  refine ⟨⟨hpos', hchan'.trans hchan, fun i hi => ?_⟩, hquiet⟩
  rw [hsub', List.getD_eq_getElem?_getD, List.getElem?_set]
  obtain rfl | hlt := Nat.eq_or_lt_of_le (Nat.le_of_lt_succ hi)
  · have hroom : i < s.regs.sub.length := by omega
    simp [hroom, hbyte]
  · rw [if_neg hlt.ne', ← List.getD_eq_getElem?_getD, hsub i hlt]

theorem State.Collected.subframe_eq {s : State} {ch j : Nat} {bytes : Nat → Byte} (h : s.Collected ch bytes j)
    (hj : j + 1 = s.par.subslot) (hbyte : s.inp.dmxByte = bytes j) :
    s.subframe = (List.range s.par.subslot).map bytes := by
  obtain ⟨-, -, hsub⟩ := h
  rw [State.subframe, ← hj, Nat.add_sub_cancel, List.range_succ, List.map_append, List.map_singleton, hbyte]
  congr 1
  exact List.map_congr_left fun i hi => hsub i (List.mem_range.1 hi)

theorem State.Ok.sub_length {s : State} (h : s.Ok) : s.regs.sub.length = s.par.subslot - 1 := by
  obtain ⟨-, -, -, -, -, -, hsub, -⟩ := h
  exact hsub

/-- A trace gives a byte on each of the first `k` ticks, marked at most on the first, to consumers that are ready. -/
def State.Fed (s : State) (k : Nat) : Prop :=
  ∀ j < k, (s.inputAt j).dmxValid = true ∧ AllReady (s.inputAt j) s.par.channels ∧
    (0 < j → (s.inputAt j).dmxFirst = false)

theorem State.Ok.fed_tick {s : State} (hs : s.Ok) {k j : Nat} (h : s.Fed k) (hj : j < k) :
    (State.afterTick^[j] s).go = true ∧ (j = 0 ∨ (State.afterTick^[j] s).inp.dmxFirst = false) ∧
      AllReady (State.afterTick^[j] s).inp (State.afterTick^[j] s).par.channels := by
  obtain ⟨hvalid, hready, hmark⟩ := h j hj
  rw [← s.inp_iterate_afterTick] at hvalid hready hmark
  rw [← s.iterate_afterTick_par j] at hready
  obtain ⟨⟨hc, -⟩, -⟩ := hs.iterate_afterTick j
  exact ⟨(State.go_eq_dmxValid hc hready).trans hvalid, j.eq_zero_or_pos.imp_right hmark, hready⟩

theorem State.Ok.collected_iterate {s : State} (hs : s.Ok) (hst : s.regs.dstate = .byte 0)
    (hfed : s.Fed s.par.subslot) {j : Nat} (hj : j < s.par.subslot) :
    (State.afterTick^[j] s).Collected s.startChannel (fun i => (s.inputAt i).dmxByte) j ∧
      (0 < j → (State.afterTick^[j] s).out.dmxOutValid = List.replicate s.par.channels false) := by
  induction j with
  | zero =>
    have hnone : ∀ i < 0, s.regs.sub.getD i 0 = (s.inputAt i).dmxByte := fun i hi => absurd hi i.not_lt_zero
    exact ⟨⟨State.atByte_of_byte hst 0, rfl, hnone⟩, fun h => absurd h (lt_irrefl 0)⟩
  | succ j ih =>
    obtain ⟨hcollected, -⟩ := ih (Nat.lt_of_succ_lt hj)
    obtain ⟨hgo, hmark, -⟩ := hs.fed_tick hfed (Nat.lt_of_succ_lt hj)
    obtain ⟨hcollected', hquiet⟩ := hcollected.store (hs.iterate_afterTick j).sub_length
      (by rwa [s.iterate_afterTick_par]) hgo hmark (by rw [s.inp_iterate_afterTick])
    rw [s.iterate_afterTick_par] at hquiet
    rw [Function.iterate_succ_apply']
    exact ⟨hcollected', fun _ => hquiet⟩

/-- Settles O36: all bytes but the last are collected in silence, and the last one completes the sample. -/
theorem subframeInGivesOneSampleOut : Obligations.SubframeInGivesOneSampleOut := by
  intro s hs hst hfed
  refine ⟨fun j hj => ⟨_, hs.ran_eq (j + 1), (hs.collected_iterate hst hfed hj).2 j.succ_pos⟩, ?_⟩
  obtain ⟨j, hj⟩ := Nat.exists_eq_add_one_of_ne_zero s.par.subslot_pos.ne'
  have hlt : j < s.par.subslot := by omega
  obtain ⟨hcollected, -⟩ := hs.collected_iterate hst hfed hlt
  obtain ⟨hgo, hmark, hready⟩ := hs.fed_tick hfed hlt
  have hpar := s.iterate_afterTick_par j
  have hlast : j + 1 = (State.afterTick^[j] s).par.subslot := by rw [hpar, hj]
  have hsubframe := hcollected.subframe_eq hlast (by rw [s.inp_iterate_afterTick])
  obtain ⟨hpos, hchan, -⟩ := hcollected
  obtain ⟨hst', hchan', hvalid', hsample', -⟩ := State.afterTick_of_complete hpos hlast hgo hmark
  have hhandoff := State.handoff_of_allReady hready
  have hrun : s.ran s.par.subslot = some (State.afterTick^[j] s).afterTick := by
    rw [hj, hs.ran_eq, Function.iterate_succ_apply']
  rw [hchan] at hchan' hvalid'
  rw [hsubframe, hpar] at hsample'
  rw [hpar] at hvalid'
  have hstart : s.startChannel = if (s.inputAt 0).dmxFirst then 0 else (s.regs.chan + 1) % s.par.channels := by
    rw [← s.inp_iterate_afterTick 0]
    rfl
  exact ⟨_, hrun, hst', hchan'.trans hstart, hchan' ▸ hvalid', hhandoff, hsample'⟩

/-! ### The position is a count (R95, R181) -/

/-- The demultiplexer is where `n` consumed bytes bring it: at byte `n mod S`, and on the channel of the last of
them. -/
def State.AtCount (s : State) (n : Nat) : Prop :=
  s.atByte (n % s.par.subslot) = true ∧ (0 < n → s.regs.chan = (n - 1) / s.par.subslot % s.par.channels)

/-- The next byte, marked only if it is the very first, belongs to subframe `n div S`. -/
theorem State.AtCount.byteChannel {s : State} {n : Nat} (h : s.AtCount n) (hmark : s.inp.dmxFirst = true ↔ n = 0) :
    s.byteChannel (n % s.par.subslot) = n / s.par.subslot % s.par.channels := by
  obtain ⟨-, hchan⟩ := h
  cases n with
  | zero => simp [State.byteChannel, State.startChannel, hmark.2 rfl]
  | succ n =>
    have hfirst : s.inp.dmxFirst = false := Bool.eq_false_iff.2 fun hf => n.succ_ne_zero (hmark.1 hf)
    have hchan := hchan n.succ_pos
    rw [Nat.add_sub_cancel] at hchan
    by_cases hzero : (n + 1) % s.par.subslot = 0
    · rw [State.byteChannel, if_pos hzero, State.startChannel, hfirst, hchan,
        Nat.succ_div_of_dvd (Nat.dvd_of_mod_eq_zero hzero)]
      exact Nat.mod_add_mod ..
    · rw [State.byteChannel, if_neg hzero, hchan,
        Nat.succ_div_of_not_dvd fun hdvd => hzero (Nat.mod_eq_zero_of_dvd hdvd)]

theorem State.AtCount.take {s : State} {n : Nat} (h : s.AtCount n) (hgo : s.go = true)
    (hmark : s.inp.dmxFirst = true ↔ n = 0) :
    s.afterTick.AtCount (n + 1) ∧ s.afterTick.out.framingError = false := by
  have hchannel := h.byteChannel hmark
  obtain ⟨hpos, -⟩ := h
  have hlt : n % s.par.subslot < s.par.subslot := Nat.mod_lt _ s.par.subslot_pos
  have hunmarked : n % s.par.subslot = 0 ∨ s.inp.dmxFirst = false := by
    cases hf : s.inp.dmxFirst with
    | false => exact .inr rfl
    | true => exact .inl (by rw [hmark.1 hf, Nat.zero_mod])
  have hnext : (n + 1) % s.par.subslot =
      if n % s.par.subslot + 1 = s.par.subslot then 0 else n % s.par.subslot + 1 := by
    rw [← add_one_mod_eq hlt, Nat.mod_add_mod]
  obtain hj | hj := Nat.lt_or_eq_of_le hlt
  · obtain ⟨hstored, hchan', -, -, hquiet⟩ := State.afterTick_of_store hpos hj hgo hunmarked
    have hpos' : s.afterTick.atByte ((n + 1) % s.par.subslot) = true := by
      rw [hnext, if_neg hj.ne]
      exact hstored
    exact ⟨⟨hpos', fun _ => hchan'.trans hchannel⟩, hquiet⟩
  · obtain ⟨hst', hchan', -, -, hquiet⟩ := State.afterTick_of_complete hpos hj hgo hunmarked
    have hpos' : s.afterTick.atByte ((n + 1) % s.par.subslot) = true := by
      rw [hnext, if_pos hj]
      exact State.atByte_of_byte hst' 0
    exact ⟨⟨hpos', fun _ => hchan'.trans hchannel⟩, hquiet⟩

theorem State.AtCount.hold {s : State} {n : Nat} (h : s.AtCount n) (hgo : s.go = false) :
    s.afterTick.AtCount n ∧ s.afterTick.out.framingError = false := by
  have hrow := State.dmxRow_of_not_go hgo
  obtain ⟨hpos, hchan⟩ := h
  obtain ⟨k, hst, hk⟩ := State.atByte_eq_true_iff.1 hpos
  have hst' : s.afterTick.regs.dstate = .byte k := (congrArg DmxRow.dstate hrow).trans hst
  have hchan' : s.afterTick.regs.chan = s.regs.chan := congrArg DmxRow.chan hrow
  exact ⟨⟨State.atByte_eq_true_iff.2 ⟨k, hst', hk⟩, fun hn => hchan'.trans (hchan hn)⟩,
    congrArg DmxRow.violation hrow⟩

/-- The number of bytes offered on the first `k` ticks: to consumers that are ready, the number of bytes consumed. -/
def State.bytesOffered (s : State) (k : Nat) : Nat := ((List.range k).filter fun i => (s.inputAt i).dmxValid).length

theorem State.bytesOffered_succ (s : State) (k : Nat) :
    s.bytesOffered (k + 1) = s.bytesOffered k + if (s.inputAt k).dmxValid then 1 else 0 := by
  rw [State.bytesOffered, List.range_succ, List.filter_append, List.length_append, List.filter_singleton]
  cases (s.inputAt k).dmxValid <;> rfl

/-- The consumers are ready on each of the first `k` ticks, and of the bytes offered the first alone is marked. -/
def State.MarkedOnce (s : State) (k : Nat) : Prop :=
  ∀ j < k, AllReady (s.inputAt j) s.par.channels ∧
    ((s.inputAt j).dmxValid = true → ((s.inputAt j).dmxFirst = true ↔ s.bytesOffered j = 0))

theorem State.Ok.atCount_iterate {s : State} (hs : s.Ok) (hst : s.regs.dstate = .byte 0) {k : Nat}
    (h : s.MarkedOnce k) :
    (State.afterTick^[k] s).AtCount (s.bytesOffered k) ∧
      (0 < k → (State.afterTick^[k] s).out.framingError = false) := by
  induction k with
  | zero =>
    refine ⟨⟨?_, fun h => absurd h (lt_irrefl 0)⟩, fun h => absurd h (lt_irrefl 0)⟩
    exact (State.atByte_of_byte hst _).trans (beq_iff_eq.2 (Nat.zero_mod _).symm)
  | succ k ih =>
    obtain ⟨hcount, -⟩ := ih fun j hj => h j (Nat.lt_succ_of_lt hj)
    obtain ⟨hready, hmark⟩ := h k k.lt_succ_self
    obtain ⟨⟨hc, -⟩, -⟩ := hs.iterate_afterTick k
    have hgo := State.go_eq_dmxValid hc (by rwa [s.iterate_afterTick_par, s.inp_iterate_afterTick])
    rw [s.inp_iterate_afterTick] at hgo
    rw [Function.iterate_succ_apply', s.bytesOffered_succ]
    cases hvalid : (s.inputAt k).dmxValid with
    | false =>
      obtain ⟨hcount', hquiet⟩ := hcount.hold (hgo.trans hvalid)
      exact ⟨hcount', fun _ => hquiet⟩
    | true =>
      have hfirst := hmark hvalid
      rw [← s.inp_iterate_afterTick] at hfirst
      obtain ⟨hcount', hquiet⟩ := hcount.take (hgo.trans hvalid) hfirst
      exact ⟨hcount', fun _ => hquiet⟩

/-- Settles O37: each tick keeps the count, by `State.AtCount.take` with a byte and `State.AtCount.hold` without. -/
theorem positionIsTheCountOfConsumedBytes : Obligations.PositionIsTheCountOfConsumedBytes := by
  intro s k hs hst h
  have hmarked : s.MarkedOnce k := fun j hj => by
    rw [State.bytesOffered, List.length_eq_zero_iff]
    exact h j hj
  obtain ⟨⟨hpos, hchan⟩, hquiet⟩ := hs.atCount_iterate hst hmarked
  rw [s.iterate_afterTick_par] at hpos hchan
  exact ⟨_, _, hs.ran_eq k, rfl, State.atByte_eq_true_iff.1 hpos, hchan, hquiet⟩

end Sys2Proof.Machine

namespace Sys2Proof.Machine

/-! ## The multiplexer (43_stream_mux.md)

### The operations (R202 to R207) -/

/-- The control word at an offset that exists (R104). -/
theorem State.controlWord_mux {s : State} (hmux : s.par.hasMux = true) (hoff : s.regs.off.toNat < s.par.subslot) :
    s.controlWord .mux = some (packBits [s.inp.muxReady, s.atLastOffset]) :=
  if_pos (Bool.and_eq_true_iff.2 ⟨hmux, decide_eq_true hoff⟩)

theorem exec_muxHold {s : State} (hmux : s.par.hasMux = true) (hoff : s.regs.off.toNat < s.par.subslot)
    (hready : s.inp.muxReady = false) : exec (.muxHold s.atLastOffset) s = .next (s.driveMux false) := by
  have hword := State.controlWord_mux hmux hoff
  rw [hready] at hword
  exact State.perform_of_selected hword

theorem exec_muxByte {s : State} (hmux : s.par.hasMux = true) (hoff : s.regs.off.toNat < s.par.subslot)
    (hready : s.inp.muxReady = true) (hlast : s.atLastOffset = false) :
    exec .muxByte s = .next ((s.driveMux false).write fun n => { n with off := s.regs.off + 1 }) := by
  have hword := State.controlWord_mux hmux hoff
  rw [hready, hlast] at hword
  exact State.perform_of_selected hword

theorem exec_muxWrap {s : State} (hmux : s.par.hasMux = true) (hoff : s.regs.off.toNat < s.par.subslot)
    (hready : s.inp.muxReady = true) (hlast : s.atLastOffset = true) :
    exec .muxWrap s = .next ((s.driveMux true).write fun n => { n with off := 0, sel := !s.regs.sel }) := by
  have hword := State.controlWord_mux hmux hoff
  rw [hready, hlast] at hword
  exact State.perform_of_selected hword

/-- The sample is cut to b bits at the port already, so packing it cuts nothing more (R96, R202). -/
theorem State.muxBuffer_eq (s : State) :
    s.muxBuffer = s.inp.muxSample.getD s.regs.sel.toNat 0 % 2 ^ s.par.bits * 2 ^ s.par.depth.pad :=
  congrArg (· * 2 ^ s.par.depth.pad) (Nat.mod_mod ..)

/-- Settles O41: the transport's `out_ready` and the offset select the operation. -/
theorem multiplexerOperations : Obligations.MultiplexerOperations := by
  refine ⟨by decide, rfl, rfl, ?_⟩
  rintro s v byte hmux hoff rfl rfl
  rw [← s.muxBuffer_eq]
  refine ⟨fun hready => exec_muxHold hmux hoff hready, fun hready hlast => ?_, fun hready hlast => ?_⟩
  · exact exec_muxByte hmux hoff hready (beq_false_of_ne hlast)
  · exact exec_muxWrap hmux hoff hready (beq_iff_eq.2 hlast)

end Sys2Proof.Machine

namespace Sys2Proof.Machine

/-! ## Ticks of the multiplexer (R205, R206, R208)

### Its registers and ports after a tick -/

@[simp] theorem State.afterTick_off (s : State) : s.afterTick.regs.off = s.offAfter := rfl

@[simp] theorem State.afterTick_sel (s : State) : s.afterTick.regs.sel = s.selAfter := rfl

theorem State.afterTick_muxOutByte {s : State} (hmux : s.par.hasMux = true) :
    s.afterTick.out.muxOutByte = byteAt s.muxBuffer s.regs.off.toNat := if_pos hmux

theorem State.afterTick_muxSReady {s : State} (hmux : s.par.hasMux = true) :
    s.afterTick.out.muxSReady = [s.muxWraps && !s.regs.sel, s.muxWraps && s.regs.sel] := if_pos hmux

theorem State.offAfter_of_ready {s : State} (hmux : s.par.hasMux = true) (hready : s.inp.muxReady = true) :
    s.offAfter = if s.atLastOffset then 0 else s.regs.off + 1 :=
  if_pos (Bool.and_eq_true_iff.2 ⟨hmux, hready⟩)

theorem State.muxWraps_of_ready {s : State} (hmux : s.par.hasMux = true) (hready : s.inp.muxReady = true) :
    s.muxWraps = s.atLastOffset := by
  rw [State.muxWraps, hmux, hready, Bool.true_and, Bool.true_and]

theorem State.offAfter_of_not_ready {s : State} (hready : s.inp.muxReady = false) : s.offAfter = s.regs.off := by
  simp [State.offAfter, hready]

theorem State.selAfter_of_not_ready {s : State} (hready : s.inp.muxReady = false) : s.selAfter = s.regs.sel := by
  simp [State.selAfter, State.muxWraps, hready]

/-! ### The position is a count (R208) -/

/-- The multiplexer is where `n` accepted bytes bring it: at byte `n mod S` of a subframe of channel
`(n div S) mod 2`. -/
def State.MuxAtCount (s : State) (n : Nat) : Prop :=
  s.regs.off.toNat = n % s.par.subslot ∧ s.regs.sel.toNat = n / s.par.subslot % 2

theorem State.MuxAtCount.atLastOffset_iff {s : State} {n : Nat} (h : s.MuxAtCount n) :
    s.atLastOffset = true ↔ s.par.subslot ∣ n + 1 := by
  obtain ⟨hoff, -⟩ := h
  rw [State.atLastOffset, beq_iff_eq, hoff, Nat.mod_eq_sub_iff one_pos s.par.subslot_pos]

/-- An accepted byte: the last one of its subframe turns to the other channel. -/
theorem State.MuxAtCount.take {s : State} {n : Nat} (h : s.MuxAtCount n) (hmux : s.par.hasMux = true)
    (hready : s.inp.muxReady = true) : s.afterTick.MuxAtCount (n + 1) := by
  have hlast := h.atLastOffset_iff
  obtain ⟨hoff, hsel⟩ := h
  rw [State.MuxAtCount, State.afterTick_off, State.afterTick_sel, State.offAfter_of_ready hmux hready, State.selAfter,
    State.muxWraps_of_ready hmux hready]
  show _ = (n + 1) % s.par.subslot ∧ _ = (n + 1) / s.par.subslot % 2
  by_cases hdvd : s.par.subslot ∣ n + 1
  · rw [hlast.2 hdvd, if_pos rfl, Bool.xor_true, Nat.mod_eq_zero_of_dvd hdvd, Nat.succ_div_of_dvd hdvd]
    refine ⟨rfl, ?_⟩
    have hnot : (!s.regs.sel).toNat = 1 - s.regs.sel.toNat := by cases s.regs.sel <;> rfl
    omega
  · have hstay : s.atLastOffset = false := Bool.eq_false_iff.2 fun h => hdvd (hlast.1 h)
    have hne : s.regs.off.toNat ≠ s.par.subslot - 1 := beq_eq_false_iff_ne.1 hstay
    have hsize := s.par.subslot_le_four
    have hlt : n % s.par.subslot < s.par.subslot := Nat.mod_lt _ s.par.subslot_pos
    have hnext : n % s.par.subslot + 1 ≠ s.par.subslot := by omega
    rw [hstay, if_neg Bool.false_ne_true, Bool.xor_false, Nat.succ_div_of_not_dvd hdvd, ← Nat.mod_add_mod,
      add_one_mod_eq hlt, if_neg hnext, ← hoff]
    refine ⟨BitVec.toNat_add_of_lt ?_, hsel⟩
    show _ + 1 < 4
    omega

theorem State.MuxAtCount.hold {s : State} {n : Nat} (h : s.MuxAtCount n) (hready : s.inp.muxReady = false) :
    s.afterTick.MuxAtCount n := by
  rw [State.MuxAtCount, State.afterTick_off, State.afterTick_sel, State.offAfter_of_not_ready hready,
    State.selAfter_of_not_ready hready]
  exact h

/-- The number of bytes that the transport accepts on the first `k` ticks. -/
def State.bytesAccepted (s : State) (k : Nat) : Nat := ((List.range k).filter fun j => (s.inputAt j).muxReady).length

theorem State.bytesAccepted_succ (s : State) (k : Nat) :
    s.bytesAccepted (k + 1) = s.bytesAccepted k + if (s.inputAt k).muxReady then 1 else 0 := by
  rw [State.bytesAccepted, List.range_succ, List.filter_append, List.length_append, List.filter_singleton]
  cases (s.inputAt k).muxReady <;> rfl

theorem State.muxAtCount_iterate {s : State} (hmux : s.par.hasMux = true) (hoff : s.regs.off = 0)
    (hsel : s.regs.sel = false) (k : Nat) : (State.afterTick^[k] s).MuxAtCount (s.bytesAccepted k) := by
  induction k with
  | zero =>
    have hoff0 : s.regs.off.toNat = 0 % s.par.subslot := by rw [hoff, Nat.zero_mod]; rfl
    have hsel0 : s.regs.sel.toNat = 0 / s.par.subslot % 2 := by rw [hsel, Nat.zero_div]; rfl
    exact ⟨hoff0, hsel0⟩
  | succ k ih =>
    have hinp := s.inp_iterate_afterTick k
    rw [Function.iterate_succ_apply', s.bytesAccepted_succ]
    cases hready : (s.inputAt k).muxReady with
    | false => exact ih.hold (hinp ▸ hready)
    | true => exact ih.take (by rwa [s.iterate_afterTick_par]) (hinp ▸ hready)

/-- Settles O43: each tick keeps the count, by `State.MuxAtCount.take` where the transport accepts the byte and
`State.MuxAtCount.hold` where it does not. -/
theorem offsetAndSelectorCountAcceptedBytes : Obligations.OffsetAndSelectorCountAcceptedBytes := by
  intro s k hs hmux hoff hsel
  obtain ⟨hoff', hsel'⟩ := State.muxAtCount_iterate hmux hoff hsel k
  rw [s.iterate_afterTick_par] at hoff' hsel'
  exact ⟨_, _, hs.ran_eq k, rfl, hoff', hsel'⟩

end Sys2Proof.Machine

namespace Sys2Proof.Machine

/-! ## The multiplexer into the demultiplexer (R210) -/

theorem length_filter_range_of_forall {p : Nat → Bool} {k : Nat} (h : ∀ j < k, p j = true) :
    ((List.range k).filter p).length = k := by
  rw [List.filter_eq_self.2 fun j hj => h j (List.mem_range.1 hj), List.length_range]

theorem State.inputAt_iterate_afterTick (s : State) (k j : Nat) :
    (State.afterTick^[k] s).inputAt j = s.inputAt (k + j) := by
  rw [← State.inp_iterate_afterTick, ← Function.iterate_add_apply, State.inp_iterate_afterTick, Nat.add_comm]

theorem State.Ok.ran_add {s : State} (h : s.Ok) (k j : Nat) : s.ran (k + j) = (State.afterTick^[k] s).ran j := by
  rw [h.ran_eq, (h.iterate_afterTick k).ran_eq, Nat.add_comm, Function.iterate_add_apply]

theorem State.startChannel_eq (s : State) :
    s.startChannel = if (s.inputAt 0).dmxFirst then 0 else (s.regs.chan + 1) % s.par.channels := by
  rw [← s.inp_iterate_afterTick 0]
  rfl

/-- On tick `j` the transport takes the multiplexer's byte and gives it to the demultiplexer, marked if it is the very
first one, and the consumers of both channels are ready. -/
def State.LoopedAt (s : State) (j : Nat) : Prop :=
  (s.inputAt j).muxReady = true ∧ (s.inputAt j).dmxValid = true ∧ AllReady (s.inputAt j) 2 ∧
    ((s.inputAt j).dmxFirst = true ↔ j = 0) ∧
    (s.ran (j + 1)).map (fun u => u.out.muxOutByte) = some (s.inputAt j).dmxByte

/-- Tick `m * S + j` is byte `j` of subframe `m`. -/
theorem mul_add_div_mod {size j : Nat} (hj : j < size) (m : Nat) :
    (m * size + j) / size = m ∧ (m * size + j) % size = j :=
  (Nat.div_mod_unique (Nat.zero_lt_of_lt hj)).2 ⟨by rw [Nat.mul_comm, Nat.add_comm], hj⟩

section
variable {s : State}

theorem State.Ok.channels_of_hasMux (h : s.Ok) (hmux : s.par.hasMux = true) : s.par.channels = 2 := by
  obtain ⟨⟨-, -, -, -, -, -, -, -, -, -, -, hchannels, -⟩, -⟩ := h
  exact hchannels hmux

/-- After `k` ticks of the loop the multiplexer has sent `k` bytes. -/
theorem State.muxAtCount_of_looped (hmux : s.par.hasMux = true) (hoff : s.regs.off = 0) (hsel : s.regs.sel = false)
    {k : Nat} (hloop : ∀ j < k, s.LoopedAt j) : (State.afterTick^[k] s).MuxAtCount k := by
  have hcount := State.muxAtCount_iterate hmux hoff hsel k
  rwa [State.bytesAccepted, length_filter_range_of_forall fun j hj => (hloop j hj).1] at hcount

/-- After `k` ticks of the loop the demultiplexer has consumed `k` bytes. -/
theorem State.Ok.atCount_of_looped (hs : s.Ok) (hmux : s.par.hasMux = true) (hst : s.regs.dstate = .byte 0) {k : Nat}
    (hloop : ∀ j < k, s.LoopedAt j) : (State.afterTick^[k] s).AtCount k := by
  have hoffered : ∀ j ≤ k, s.bytesOffered j = j := fun j hj => length_filter_range_of_forall fun i hi => by
    obtain ⟨-, hvalid, -⟩ := hloop i (hi.trans_le hj)
    exact hvalid
  have hmarked : s.MarkedOnce k := fun j hj => by
    obtain ⟨-, -, hready, hfirst, -⟩ := hloop j hj
    rw [hoffered j hj.le, hs.channels_of_hasMux hmux]
    exact ⟨hready, fun _ => hfirst⟩
  obtain ⟨hcount, -⟩ := hs.atCount_iterate hst hmarked
  rwa [hoffered k le_rfl] at hcount

/-- The byte that the loop gives back is the one the multiplexer's offset points at (R203). -/
theorem State.Ok.dmxByte_of_looped (hs : s.Ok) (hmux : s.par.hasMux = true) {n : Nat} (hloop : s.LoopedAt n)
    (hcount : (State.afterTick^[n] s).MuxAtCount n) :
    (s.inputAt n).dmxByte = byteAt (State.afterTick^[n] s).muxBuffer (n % s.par.subslot) := by
  obtain ⟨-, -, -, -, hbyte⟩ := hloop
  obtain ⟨hoff, -⟩ := hcount
  have hpar := s.iterate_afterTick_par n
  rw [hs.ran_eq, Option.map_some, Option.some_inj, Function.iterate_succ_apply',
    State.afterTick_muxOutByte (by rwa [hpar]), hoff, hpar] at hbyte
  exact hbyte.symm

/-- The buffer holds the packed sample of the channel being sent. -/
theorem State.MuxAtCount.muxBuffer_eq {n v : Nat} (h : s.MuxAtCount n)
    (hsample : s.inp.muxSample[n / s.par.subslot % 2]? = some v) (hv : v < 2 ^ s.par.bits) :
    s.muxBuffer = packSample s.par.depth v := by
  obtain ⟨-, hsel⟩ := h
  have hval : s.muxSample s.muxChannel = v := by
    rw [State.muxSample, State.muxChannel, hsel, List.getD_eq_getElem?_getD, hsample]
    exact Nat.mod_eq_of_lt hv
  rw [State.muxBuffer, hval]

/-- The last byte of a subframe relieves the producer of its channel (R206). -/
theorem State.MuxAtCount.muxSReady_of_last {n : Nat} (h : s.MuxAtCount n) (hlast : s.par.subslot ∣ n + 1)
    (hmux : s.par.hasMux = true) (hready : s.inp.muxReady = true) :
    s.afterTick.out.muxSReady = [n / s.par.subslot % 2 == 0, n / s.par.subslot % 2 == 1] := by
  have hwraps : s.muxWraps = true := (State.muxWraps_of_ready hmux hready).trans (h.atLastOffset_iff.2 hlast)
  obtain ⟨-, hsel⟩ := h
  rw [State.afterTick_muxSReady hmux, hwraps, ← hsel]
  cases s.regs.sel <;> rfl

/-- The loop runs to the end of subframe `m`. -/
def State.LoopedThrough (s : State) (m : Nat) : Prop := ∀ i < m * s.par.subslot + s.par.subslot, s.LoopedAt i

/-- Byte `j` of subframe `m` comes back as byte `j` of the packed sample that the producer holds. -/
theorem State.Ok.dmxByte_of_subframe (hs : s.Ok) (hmux : s.par.hasMux = true) (hoff : s.regs.off = 0)
    (hsel : s.regs.sel = false) {m j v : Nat} (hloop : s.LoopedThrough m) (hj : j < s.par.subslot)
    (hsample : (s.inputAt (m * s.par.subslot + j)).muxSample[m % 2]? = some v) (hv : v < 2 ^ s.par.bits) :
    (s.inputAt (m * s.par.subslot + j)).dmxByte = byteAt (packSample s.par.depth v) j := by
  have hcount := State.muxAtCount_of_looped hmux hoff hsel fun i hi => hloop i (hi.trans (Nat.add_lt_add_left hj _))
  have hpar := s.iterate_afterTick_par (m * s.par.subslot + j)
  obtain ⟨hdiv, hmod⟩ := mul_add_div_mod hj m
  have hbuffer := hcount.muxBuffer_eq (v := v) (by rwa [hpar, hdiv, s.inp_iterate_afterTick]) (by rwa [hpar])
  rw [hs.dmxByte_of_looped hmux (hloop _ (Nat.add_lt_add_left hj _)) hcount, hbuffer, hmod, hpar]

/-- Before subframe `m` the demultiplexer waits for the first byte of a subframe of channel `m mod 2`. -/
theorem State.Ok.startChannel_of_looped (hs : s.Ok) (hmux : s.par.hasMux = true) (hst : s.regs.dstate = .byte 0)
    {m : Nat} (hloop : s.LoopedThrough m) : (State.afterTick^[m * s.par.subslot] s).regs.dstate = .byte 0 ∧
      (State.afterTick^[m * s.par.subslot] s).startChannel = m % 2 := by
  have hcount := hs.atCount_of_looped hmux hst fun i hi => hloop i (Nat.lt_add_right _ hi)
  obtain ⟨-, -, -, hfirst, -⟩ := hloop _ (Nat.lt_add_of_pos_right s.par.subslot_pos)
  have hpar := s.iterate_afterTick_par (m * s.par.subslot)
  have hchannel := hcount.byteChannel (by rwa [s.inp_iterate_afterTick])
  obtain ⟨hpos, -⟩ := hcount
  obtain ⟨hdiv, hmod⟩ := mul_add_div_mod s.par.subslot_pos m
  rw [Nat.add_zero] at hdiv hmod
  rw [hpar, hmod] at hpos hchannel
  rw [hdiv, hs.channels_of_hasMux hmux] at hchannel
  obtain ⟨k, hk, hzero⟩ := State.atByte_eq_true_iff.1 hpos
  obtain rfl : k = 0 := Fin.ext hzero
  exact ⟨hk, hchannel⟩

/-- The bytes of subframe `m` reach the demultiplexer without a gap. -/
theorem State.Ok.fed_of_looped (hs : s.Ok) (hmux : s.par.hasMux = true) {m : Nat} (hloop : s.LoopedThrough m) :
    (State.afterTick^[m * s.par.subslot] s).Fed (State.afterTick^[m * s.par.subslot] s).par.subslot := by
  intro j hj
  rw [s.iterate_afterTick_par] at hj
  obtain ⟨-, hvalid, hready, hfirst, -⟩ := hloop _ (Nat.add_lt_add_left hj _)
  rw [s.inputAt_iterate_afterTick, s.iterate_afterTick_par, hs.channels_of_hasMux hmux]
  exact ⟨hvalid, hready, fun hpos => Bool.eq_false_iff.2 fun hf => (Nat.add_pos_right _ hpos).ne' (hfirst.1 hf)⟩

/-- Subframe `m` of the loop, on the demultiplexer's side: it is one of O36. -/
theorem State.Ok.emission_of_looped (hs : s.Ok) (hmux : s.par.hasMux = true) (hst : s.regs.dstate = .byte 0) {m : Nat}
    (hloop : s.LoopedThrough m) : ∃ t, s.ran (m * s.par.subslot + s.par.subslot) = some t ∧
      t.out.dmxOutValid = [m % 2 == 0, m % 2 == 1] ∧
      t.out.dmxOutSample = assemble s.par.depth
        ((List.range s.par.subslot).map fun j => (s.inputAt (m * s.par.subslot + j)).dmxByte) := by
  obtain ⟨hst', hstart⟩ := hs.startChannel_of_looped hmux hst hloop
  have hpar := s.iterate_afterTick_par (m * s.par.subslot)
  obtain ⟨-, t, hrun, -, hchan, hvalid, -, hsample⟩ :=
    subframeInGivesOneSampleOut _ (hs.iterate_afterTick (m * s.par.subslot)) hst' (hs.fed_of_looped hmux hloop)
  rw [State.startChannel_eq] at hstart
  rw [hpar, ← hs.ran_add] at hrun
  rw [hchan.trans hstart, hpar, hs.channels_of_hasMux hmux] at hvalid
  simp only [hpar, s.inputAt_iterate_afterTick] at hsample
  exact ⟨t, hrun, hvalid, hsample⟩

/-- Subframe `m` of the loop, on the multiplexer's side: its last byte relieves the producer of the channel (R206). -/
theorem State.Ok.muxSReady_of_looped (hs : s.Ok) (hmux : s.par.hasMux = true) (hoff : s.regs.off = 0)
    (hsel : s.regs.sel = false) {m : Nat} (hloop : s.LoopedThrough m) :
    ∃ t, s.ran (m * s.par.subslot + s.par.subslot) = some t ∧ t.out.muxSReady = [m % 2 == 0, m % 2 == 1] := by
  obtain ⟨j, hj⟩ := Nat.exists_eq_add_one_of_ne_zero s.par.subslot_pos.ne'
  have hlt : m * s.par.subslot + j < m * s.par.subslot + s.par.subslot := by omega
  obtain ⟨hready, -⟩ := hloop _ hlt
  have hcount := State.muxAtCount_of_looped hmux hoff hsel fun i hi => hloop i (hi.trans hlt)
  have hpar := s.iterate_afterTick_par (m * s.par.subslot + j)
  have hrun : s.ran (m * s.par.subslot + s.par.subslot) =
      some (State.afterTick^[m * s.par.subslot + j] s).afterTick := by
    rw [hs.ran_eq, ← Function.iterate_succ_apply' State.afterTick, Nat.succ_eq_add_one, Nat.add_assoc, ← hj]
  have hlast : s.par.subslot ∣ m * s.par.subslot + j + 1 := by
    rw [Nat.add_assoc, ← hj]
    exact (Nat.dvd_mul_left ..).add (dvd_refl _)
  have hsready := hcount.muxSReady_of_last (by rwa [hpar]) (by rwa [hpar]) (by rwa [s.inp_iterate_afterTick])
  obtain ⟨hdiv, -⟩ := mul_add_div_mod (show j < s.par.subslot by omega) m
  rw [hpar, hdiv] at hsready
  exact ⟨_, hrun, hsready⟩

end

/-- Settles O44: subframe `m` of the loop is one of O36, started on channel `m mod 2`, whose bytes are those of the
packed sample; O42 unpacks it. -/
theorem loopbackReproducesEverySample : Obligations.LoopbackReproducesEverySample := by
  intro s n v hs hmux hoff hsel hst hlooped hheld m hm
  have hle : m * s.par.subslot + s.par.subslot ≤ n * s.par.subslot := by
    rw [← Nat.add_one_mul]
    exact Nat.mul_le_mul_right _ hm
  have hloop : s.LoopedThrough m := fun i hi => hlooped i (hi.trans_le hle)
  have hbytes : ∀ j ∈ List.range s.par.subslot, (s.inputAt (m * s.par.subslot + j)).dmxByte =
      byteAt (packSample s.par.depth (v m)) j := fun j hj => by
    obtain ⟨hsample, hv⟩ := hheld m hm j (List.mem_range.1 hj)
    exact hs.dmxByte_of_subframe hmux hoff hsel hloop (List.mem_range.1 hj) hsample hv
  obtain ⟨-, hv⟩ := hheld m hm 0 s.par.subslot_pos
  obtain ⟨t, hrun, hvalid, hsample⟩ := hs.emission_of_looped hmux hst hloop
  obtain ⟨t', hrun', hsready⟩ := hs.muxSReady_of_looped hmux hoff hsel hloop
  obtain rfl : t = t' := Option.some_inj.1 (hrun.symm.trans hrun')
  rw [List.map_congr_left hbytes] at hsample
  exact ⟨t, hrun, hsample.trans (unpackingInvertsPacking s.par.depth (v m) hv), hvalid, hsready⟩

end Sys2Proof.Machine

namespace Sys2Proof.Machine

/-! ## The delta-sigma DAC (44_delta_sigma_dac.md)

### The modulators' operations (R222 to R225) -/

theorem State.update_eq_true_iff {s : State} : s.update = true ↔ s.regs.seq = .latch := beq_iff_eq

theorem State.update_eq_false_iff {s : State} : s.update = false ↔ s.regs.seq ≠ .latch := beq_eq_false_iff_ne

theorem State.stb_eq_true_iff {s : State} : s.stb = true ↔ s.regs.cntPulse = 0 :=
  State.pulse_eq_true_iff (d := .pulse)

theorem State.stb_eq_false_iff {s : State} : s.stb = false ↔ s.regs.cntPulse ≠ 0 :=
  State.pulse_eq_false_iff (d := .pulse)

/-- The control word of the modulators (R105). -/
theorem State.controlWord_dsm {s : State} {u st : Bool} (hdac : s.par.hasDac = true) (hu : s.update = u)
    (hst : s.stb = st) : s.controlWord .dsm = some (packBits [u, st]) := by
  rw [State.controlWord, if_pos hdac, hu, hst]

/-- Settles O45: `update` and `stb` are the two bits of the control word. -/
theorem modulatorOperations : Obligations.ModulatorOperations := by
  refine ⟨rfl, rfl, rfl, rfl, ?_⟩
  rintro s pins sums held hdac rfl rfl rfl
  refine ⟨fun hseq hcnt => ?_, fun hseq hcnt => ?_, fun hseq hcnt => ?_, fun hseq hcnt => ?_⟩
  · exact State.perform_of_selected (i := .dsmHold)
      (State.controlWord_dsm hdac (State.update_eq_false_iff.2 hseq) (State.stb_eq_false_iff.2 hcnt))
  · exact State.perform_of_selected (i := .dsmMod)
      (State.controlWord_dsm hdac (State.update_eq_false_iff.2 hseq) (State.stb_eq_true_iff.2 hcnt))
  · exact State.perform_of_selected (i := .dsmUpdate)
      (State.controlWord_dsm hdac (State.update_eq_true_iff.2 hseq) (State.stb_eq_false_iff.2 hcnt))
  · exact State.perform_of_selected (i := .dsmModupd)
      (State.controlWord_dsm hdac (State.update_eq_true_iff.2 hseq) (State.stb_eq_true_iff.2 hcnt))

/-! ### The sequencer's operations (R230 to R233) -/

theorem State.sampleTick_eq_true_iff {s : State} : s.sampleTick = true ↔ s.regs.cntSample = 0 :=
  State.pulse_eq_true_iff (d := .sample)

theorem State.sampleTick_eq_false_iff {s : State} : s.sampleTick = false ↔ s.regs.cntSample ≠ 0 :=
  State.pulse_eq_false_iff (d := .sample)

/-- The control word of the sequencer (R106). -/
theorem State.controlWord_seq {s : State} {q : SeqState} {t : Bool} (hdac : s.par.hasDac = true)
    (hseq : s.regs.seq = q) (ht : s.sampleTick = t) :
    s.controlWord .seq = some (packBits (q.codeBits ++ [t])) := by
  rw [State.controlWord, if_pos hdac, hseq, ht]

/-- What the sequencer shows during a tick (R32, R237). -/
theorem State.driveSeq_eq {s : State} {u : Bool} (hu : s.update = u) : s.driveSeq =
    { s with out := { s.out with
        update := u
        qReady := s.perChannel fun c => !decide ((s.qOf c).items.length = 16) } } := by
  rw [State.driveSeq, hu]
  rfl

theorem exec_seqWait {s : State} (hdac : s.par.hasDac = true) (hseq : s.regs.seq = .wait) (ht : s.sampleTick = false) :
    exec .seqWait s = .next s.driveSeq :=
  State.perform_of_selected (i := .seqWait) (State.controlWord_seq hdac hseq ht)

theorem exec_seqFire {s : State} (hdac : s.par.hasDac = true) (hseq : s.regs.seq = .wait) (ht : s.sampleTick = true) :
    exec .seqFire s = .next (s.driveSeq.write fun n => { n with seq := .channelRead }) :=
  State.perform_of_selected (i := .seqFire) (State.controlWord_seq hdac hseq ht)

theorem exec_seqRead {s : State} (hdac : s.par.hasDac = true) (hseq : s.regs.seq = .channelRead) :
    exec (.seqRead s.sampleTick) s = .next (s.driveSeq.write fun n =>
      { n with
        h := s.perChannel fun c => if (s.qOf c).isEmpty then s.hOf c else (s.qOf c).payload
        q := s.perChannel fun c => (s.qOf c).pop
        seq := .latch }) :=
  State.perform_of_selected (i := .seqRead s.sampleTick) (State.controlWord_seq hdac hseq rfl)

theorem exec_seqLatch {s : State} (hdac : s.par.hasDac = true) (hseq : s.regs.seq = .latch) :
    exec (.seqLatch s.sampleTick) s = .next (s.driveSeq.write fun n => { n with seq := .wait }) :=
  State.perform_of_selected (i := .seqLatch s.sampleTick) (State.controlWord_seq hdac hseq rfl)

/-- Settles O46: the stored state and `sample_tick` are the control word; a queue has an entry to pop or none. -/
theorem sequencerOperations : Obligations.SequencerOperations := by
  refine ⟨rfl, rfl, by decide, by decide, ?_⟩
  rintro s room hdac rfl
  have hidle (h : s.regs.seq ≠ .latch) := State.driveSeq_eq (State.update_eq_false_iff.2 h)
  refine ⟨fun hseq hcnt => ?_, fun hseq hcnt => ?_, fun hseq => ?_, fun hseq => ?_⟩
  · rw [exec_seqWait hdac hseq (State.sampleTick_eq_false_iff.2 hcnt), hidle (by simp [hseq])]
    rfl
  · rw [exec_seqFire hdac hseq (State.sampleTick_eq_true_iff.2 hcnt), hidle (by simp [hseq])]
    rfl
  · have hh : (s.perChannel fun c => if (s.qOf c).isEmpty then s.hOf c else (s.qOf c).payload) =
        s.perChannel fun c => match s.qOf c with
          | ⟨[], _⟩ => s.hOf c
          | ⟨x :: _, _⟩ => x :=
      State.perChannel_congr rfl fun c _ => by
        obtain ⟨_ | _, _⟩ := s.qOf c <;> rfl
    have hq : (s.perChannel fun c => (s.qOf c).pop) =
        s.perChannel fun c => match s.qOf c with
          | ⟨[], last⟩ => ⟨[], last⟩
          | ⟨x :: rest, _⟩ => ⟨rest, x⟩ :=
      State.perChannel_congr rfl fun c _ => by
        obtain ⟨_ | _, _⟩ := s.qOf c <;> rfl
    refine (exec_seqRead hdac hseq).trans ?_
    rw [hidle (by simp [hseq]), hh, hq]
    rfl
  · refine (exec_seqLatch hdac hseq).trans ?_
    rw [State.driveSeq_eq (State.update_eq_true_iff.2 hseq)]
    rfl

/-! ### The DAC's registers after a tick -/

@[simp] theorem State.afterTick_acc (s : State) : s.afterTick.regs.acc = s.accAfter := rfl
@[simp] theorem State.afterTick_r (s : State) : s.afterTick.regs.r = s.rAfter := rfl
@[simp] theorem State.afterTick_seq (s : State) : s.afterTick.regs.seq = s.seqAfter := rfl
@[simp] theorem State.afterTick_h (s : State) : s.afterTick.regs.h = s.hAfter := rfl

/-! ### A tick of the modulators (R223, R226) -/

theorem State.accOf_afterTick {s : State} {c : Nat} (hdac : s.par.hasDac = true) (hc : c < s.par.channels) :
    s.afterTick.accOf c = if s.stb then s.accOf c % 2 ^ s.par.bits + s.rOf c else s.accOf c := by
  rw [State.accOf, State.afterTick_acc, State.accAfter, hdac, Bool.true_and]
  split
  · exact s.perChannel_getD _ 0 hc
  · rfl

theorem State.Ok.accOf_lt {s : State} (h : s.Ok) (c : Nat) : s.accOf c < 2 ^ (s.par.bits + 1) := by
  obtain ⟨-, -, -, -, -, -, -, -, -, hacc, -⟩ := h
  exact getD_of_forall_mem hacc (Nat.two_pow_pos _) c

/-- The pin is what a `b + 1`-bit sum has above its low b bits (R226). -/
theorem pinOf_toNat {p : Params} {acc : Pattern} (h : acc < 2 ^ (p.bits + 1)) :
    (pinOf p acc).toNat = acc / 2 ^ p.bits := by
  have hcarry : acc / 2 ^ p.bits < 2 := Nat.div_lt_of_lt_mul (by rwa [pow_succ] at h)
  rw [pinOf, Nat.toNat_testBit, Nat.mod_eq_of_lt hcarry]

theorem pinOf_eq_true_iff {p : Params} {acc : Pattern} (h : acc < 2 ^ (p.bits + 1)) :
    pinOf p acc = true ↔ 2 ^ p.bits ≤ acc := by
  have hpos : 0 < acc / 2 ^ p.bits ↔ 2 ^ p.bits ≤ acc := Nat.div_pos_iff.trans (and_iff_right (Nat.two_pow_pos _))
  rw [← hpos, ← pinOf_toNat h]
  cases pinOf p acc <;> decide

/-- Settles O48: after a modulation tick ACC is the sum of the residue and R, which has `b + 1` bits. -/
theorem modulationLeavesResidueAndCarry : Obligations.ModulationLeavesResidueAndCarry := by
  intro s t c hs hdac hstb hc hstep
  obtain rfl : s.afterTick = t := Host.Outcome.next.inj (hs.step_eq.symm.trans hstep)
  have hacc : s.afterTick.accOf c = s.accOf c % 2 ^ s.par.bits + s.rOf c :=
    (State.accOf_afterTick hdac hc).trans (if_pos hstb)
  have hpin := pinOf_eq_true_iff (hs.afterTick.accOf_lt c)
  rw [hacc] at hpin
  exact ⟨_, _, rfl, rfl, by rw [hacc], by rw [hacc]; exact hpin⟩

/-! ### The count of ones (R227) -/

theorem State.Ok.countTicks_succ {s : State} (h : s.Ok) (f : State → State → Bool) (k : Nat) :
    s.countTicks f (k + 1) =
      s.countTicks f k + (f (State.afterTick^[k] s) (State.afterTick^[k + 1] s)).toNat := by
  rw [State.countTicks, List.range_succ, List.filter_append, List.length_append, List.filter_singleton, h.ran_eq k,
    h.ran_eq (k + 1), Option.bind_some, Option.map_some, Option.getD_some]
  cases f (State.afterTick^[k] s) (State.afterTick^[k + 1] s) <;> rfl

/-- One tick moves what is added to the residue into the pin and the new residue. -/
theorem State.Ok.residue_afterTick {s : State} (hs : s.Ok) {c : Nat} (hdac : s.par.hasDac = true)
    (hc : c < s.par.channels) :
    s.accOf c % 2 ^ s.par.bits + s.stb.toNat * s.rOf c =
      2 ^ s.par.bits * (s.stb && pinOf s.par (s.afterTick.accOf c)).toNat +
        s.afterTick.accOf c % 2 ^ s.par.bits := by
  have hacc := State.accOf_afterTick hdac hc
  cases hstb : s.stb with
  | false => rw [hacc, hstb]; simp
  | true =>
    have hlt : s.afterTick.accOf c < 2 ^ (s.par.bits + 1) := hs.afterTick.accOf_lt c
    rw [Bool.true_and, pinOf_toNat hlt, Nat.div_add_mod, hacc, hstb, if_pos rfl, Bool.toNat_true, Nat.one_mul]

/-- Nothing that was added is lost: it is in the ones shown so far and in the residue. -/
theorem State.Ok.residue_add_ones {s : State} (hs : s.Ok) {c r : Nat} (hdac : s.par.hasDac = true)
    (hc : c < s.par.channels) : ∀ {k : Nat}, (∀ j < k, (State.afterTick^[j] s).rOf c = r) →
    s.accOf c % 2 ^ s.par.bits + s.countTicks (fun u _ => u.stb) k * r =
      2 ^ s.par.bits * s.countTicks (fun u v => u.stb && pinOf v.par (v.accOf c)) k +
        (State.afterTick^[k] s).accOf c % 2 ^ s.par.bits
  | 0, _ => by simp [State.countTicks]
  | k + 1, hr => by
    have ih := hs.residue_add_ones hdac hc fun j hj => hr j (hj.trans k.lt_succ_self)
    have hpar := s.iterate_afterTick_par k
    have htick := (hs.iterate_afterTick k).residue_afterTick (c := c) (by rwa [hpar]) (by rwa [hpar])
    rw [hr k k.lt_succ_self, hpar] at htick
    rw [hs.countTicks_succ, hs.countTicks_succ, s.iterate_afterTick_par, Nat.add_mul, ← Nat.add_assoc, ih,
      Nat.add_assoc, Function.iterate_succ_apply', htick, Nat.mul_add, Nat.add_assoc]

/-- Settles O49: of what was added, the last residue is the part below `2^b`. -/
theorem pulseDensityIsTheFloorOfTheMean : Obligations.PulseDensityIsTheFloorOfTheMean := by
  intro s k c r hs hdac hc hr
  have hconst : ∀ j < k, (State.afterTick^[j] s).rOf c = r := fun j hj => by
    obtain ⟨u, hran, hu⟩ := hr j hj
    obtain rfl : State.afterTick^[j] s = u := Option.some_inj.1 ((hs.ran_eq j).symm.trans hran)
    exact hu
  rw [hs.residue_add_ones hdac hc hconst, Nat.mul_add_div (Nat.two_pow_pos _),
    Nat.div_eq_of_lt (Nat.mod_lt _ (Nat.two_pow_pos _)), Nat.add_zero]

/-! ### A tick of the sequencer (R229 to R233) -/

section
variable {s : State} (hdac : s.par.hasDac = true)
include hdac

theorem State.seq_afterTick_of_wait (hseq : s.regs.seq = .wait) :
    s.afterTick.regs.seq = if s.sampleTick then .channelRead else .wait := by
  rw [State.afterTick_seq, State.seqAfter, if_pos hdac, hseq]

theorem State.seq_afterTick_of_channelRead (hseq : s.regs.seq = .channelRead) : s.afterTick.regs.seq = .latch := by
  rw [State.afterTick_seq, State.seqAfter, if_pos hdac, hseq]

theorem State.seq_afterTick_of_latch (hseq : s.regs.seq = .latch) : s.afterTick.regs.seq = .wait := by
  rw [State.afterTick_seq, State.seqAfter, if_pos hdac, hseq]

theorem State.r_afterTick_of_latch (hseq : s.regs.seq = .latch) :
    s.afterTick.regs.r = s.perChannel fun c => offsetBinary s.par (s.hOf c) :=
  if_pos (Bool.and_eq_true_iff.2 ⟨hdac, State.update_eq_true_iff.2 hseq⟩)

theorem State.hOf_afterTick_of_channelRead (hseq : s.regs.seq = .channelRead) {c : Nat} (hc : c < s.par.channels) :
    s.afterTick.hOf c = (s.qOf c).items.headD (s.hOf c) := by
  have hread : s.reading = true := Bool.and_eq_true_iff.2 ⟨hdac, beq_iff_eq.2 hseq⟩
  rw [State.hOf, State.afterTick_h, State.hAfter, if_pos hread]
  exact s.perChannel_getD _ 0 hc

end

/-- R changes on LATCH ticks only (R235). -/
theorem State.r_afterTick_of_not_latch {s : State} (hseq : s.regs.seq ≠ .latch) : s.afterTick.regs.r = s.regs.r := by
  simp [State.rAfter, State.update_eq_false_iff.2 hseq]

/-- H changes on CHANNEL_READ ticks only (R232). -/
theorem State.h_afterTick_of_not_channelRead {s : State} (hseq : s.regs.seq ≠ .channelRead) :
    s.afterTick.regs.h = s.regs.h := by
  simp [State.hAfter, State.reading, hseq]

/-- Settles O51: WAIT, CHANNEL_READ and LATCH are the three ticks; the second moves the samples to H, the third to R. -/
theorem allChannelsUpdateTogether : Obligations.AllChannelsUpdateTogether := by
  intro s hs hdac hwait htick
  have hread : s.afterTick.regs.seq = .channelRead := (State.seq_afterTick_of_wait hdac hwait).trans (if_pos htick)
  have hlatch : s.afterTick.afterTick.regs.seq = .latch := State.seq_afterTick_of_channelRead hdac hread
  have hr1 : s.afterTick.regs.r = s.regs.r := State.r_afterTick_of_not_latch (by simp [hwait])
  have hr2 : s.afterTick.afterTick.regs.r = s.afterTick.regs.r :=
    State.r_afterTick_of_not_latch (by rw [hread]; decide)
  have hh1 : s.afterTick.regs.h = s.regs.h := State.h_afterTick_of_not_channelRead (by simp [hwait])
  refine ⟨_, _, _, hs.ran_eq 1, hs.ran_eq 2, hs.ran_eq 3, hr1, hr2.trans hr1,
    State.seq_afterTick_of_latch hdac hlatch, ?_⟩
  refine (State.r_afterTick_of_latch (s := s.afterTick.afterTick) hdac hlatch).trans
    (State.perChannel_congr rfl fun c hc => ?_)
  rw [State.hOf_afterTick_of_channelRead (s := s.afterTick) hdac hread hc, State.hOf, hh1]
  rfl

/-! ### The update comes once per sample period (R234) -/

theorem State.Ok.three_le_cyclesSample {s : State} (h : s.Ok) (hdac : s.par.hasDac = true) :
    3 ≤ s.par.cyclesSample := by
  obtain ⟨⟨-, -, -, -, -, -, -, -, -, -, -, -, hcycles⟩, -⟩ := h
  exact hcycles hdac

/-- The sequencer and the sample-rate divider run in step: CHANNEL_READ and LATCH are the two ticks after the pulse. -/
def State.SeqInStep (s : State) : Prop :=
  s.regs.seq = if s.regs.cntSample + 1 = s.par.cyclesSample then .channelRead
    else if s.regs.cntSample + 2 = s.par.cyclesSample then .latch else .wait

theorem State.SeqInStep.seq_eq_latch_iff {s : State} (h : s.SeqInStep) :
    s.regs.seq = .latch ↔ s.regs.cntSample + 2 = s.par.cyclesSample := by
  rw [State.SeqInStep] at h
  rw [h]
  split_ifs <;> simp <;> omega

/-- A waiting sequencer is in step at the pulse, with the three cycles that a DAC needs. -/
theorem State.Ok.seqInStep_of_pulse {s : State} (h : s.Ok) (hdac : s.par.hasDac = true) (hwait : s.regs.seq = .wait)
    (hpulse : s.regs.cntSample = 0) : s.SeqInStep := by
  have hcycles := h.three_le_cyclesSample hdac
  rw [State.SeqInStep, hwait, if_neg (by omega), if_neg (by omega)]

theorem State.cntSample_afterTick (s : State) : s.afterTick.regs.cntSample =
    if s.regs.cntSample = 0 then s.par.cyclesSample - 1 else s.regs.cntSample - 1 := rfl

/-- A tick keeps the sequencer in step. -/
theorem State.Ok.seqInStep_afterTick {s : State} (hs : s.Ok) (hdac : s.par.hasDac = true) (h : s.SeqInStep) :
    s.afterTick.SeqInStep := by
  have hcycles := hs.three_le_cyclesSample hdac
  have hcnt := s.cntSample_afterTick
  have hpar : s.afterTick.par = s.par := rfl
  rw [State.SeqInStep] at h ⊢
  rw [hpar]
  by_cases hread : s.regs.cntSample + 1 = s.par.cyclesSample
  · rw [if_pos hread] at h
    rw [if_neg (by omega)] at hcnt
    rw [State.seq_afterTick_of_channelRead hdac h, if_neg (by omega), if_pos (by omega)]
  · rw [if_neg hread] at h
    by_cases hlatch : s.regs.cntSample + 2 = s.par.cyclesSample
    · rw [if_pos hlatch] at h
      rw [if_neg (by omega)] at hcnt
      rw [State.seq_afterTick_of_latch hdac h, if_neg (by omega), if_neg (by omega)]
    · rw [if_neg hlatch] at h
      rw [State.seq_afterTick_of_wait hdac h]
      by_cases hpulse : s.regs.cntSample = 0
      · rw [if_pos hpulse] at hcnt
        rw [if_pos (State.sampleTick_eq_true_iff.2 hpulse), if_pos (by omega)]
      · have hlt := hs.cnt_lt_cycles .sample
        rw [if_neg hpulse] at hcnt
        rw [State.sampleTick_eq_false_iff.2 hpulse, if_neg Bool.false_ne_true, if_neg (by omega), if_neg (by omega)]

theorem State.Ok.seqInStep_iterate {s : State} (hs : s.Ok) (hdac : s.par.hasDac = true) (h : s.SeqInStep) :
    ∀ k : Nat, (State.afterTick^[k] s).SeqInStep
  | 0 => h
  | k + 1 => hs.afterTick.seqInStep_iterate hdac (hs.seqInStep_afterTick hdac h) k

/-- Until the pulse the sequencer waits while the divider counts down to it. -/
theorem State.waits_until_pulse {s : State} (hdac : s.par.hasDac = true) (hwait : s.regs.seq = .wait) :
    ∀ {k : Nat}, k ≤ s.regs.cntSample →
      (State.afterTick^[k] s).regs.seq = .wait ∧ (State.afterTick^[k] s).regs.cntSample + k = s.regs.cntSample
  | 0, _ => ⟨hwait, rfl⟩
  | k + 1, hk => by
    obtain ⟨hseq, hcnt⟩ := State.waits_until_pulse hdac hwait (k.le_succ.trans hk)
    have hne : (State.afterTick^[k] s).regs.cntSample ≠ 0 := by omega
    have hdac' : (State.afterTick^[k] s).par.hasDac = true := by rwa [s.iterate_afterTick_par]
    rw [Function.iterate_succ_apply', State.seq_afterTick_of_wait hdac' hseq, State.sampleTick_eq_false_iff.2 hne,
      State.cntSample_afterTick, if_neg hne]
    exact ⟨if_neg Bool.false_ne_true, by omega⟩

/-- From the first pulse on a sequencer that waited for it is in step. -/
theorem State.Ok.seqInStep_of_wait {s : State} (hs : s.Ok) (hdac : s.par.hasDac = true) (hwait : s.regs.seq = .wait)
    (j : Nat) : (State.afterTick^[s.regs.cntSample + j] s).SeqInStep := by
  obtain ⟨hseq, hzero⟩ := State.waits_until_pulse hdac hwait le_rfl
  have hpulse := hs.iterate_afterTick s.regs.cntSample
  have hdac' : (State.afterTick^[s.regs.cntSample] s).par.hasDac = true := by rwa [s.iterate_afterTick_par]
  rw [Nat.add_comm, Function.iterate_add_apply]
  exact hpulse.seqInStep_iterate hdac' (hpulse.seqInStep_of_pulse hdac' hseq (by omega)) j

/-- A counter below `c` that has gone `j` down from 0, modulo `c`, shows `c - 2` when `j` is 2 modulo `c`. -/
theorem add_two_eq_iff_of_dvd {n j c : Nat} (hn : n < c) (hc : 3 ≤ c) (h : c ∣ n + j) :
    n + 2 = c ↔ 2 ≤ j ∧ j % c = 2 := by
  have hle := Nat.mod_le j c
  have hlt := Nat.mod_lt j (Nat.zero_lt_of_lt hn)
  have hdvd : c ∣ n + j % c := (Nat.ModEq.dvd_iff ((Nat.mod_modEq j c).add_left n) dvd_rfl).2 h
  have hcases : n + j % c = 0 ∨ n + j % c = c :=
    or_iff_not_imp_left.2 fun hne => Nat.eq_of_dvd_of_lt_two_mul hne hdvd (by omega)
  omega

/-- `j` ticks after the first pulse. -/
theorem State.Ok.seq_eq_latch_iff_of_wait {s : State} (hs : s.Ok) (hdac : s.par.hasDac = true)
    (hwait : s.regs.seq = .wait) (j : Nat) :
    (State.afterTick^[s.regs.cntSample + j] s).regs.seq = .latch ↔ 2 ≤ j ∧ j % s.par.cyclesSample = 2 := by
  have hlt := (hs.iterate_afterTick (s.regs.cntSample + j)).cnt_lt_cycles .sample
  have hcount := hs.cnt_iterate_add_modEq .sample (s.regs.cntSample + j)
  rw [s.iterate_afterTick_par] at hlt
  rw [Nat.add_left_comm] at hcount
  rw [(hs.seqInStep_of_wait hdac hwait j).seq_eq_latch_iff, s.iterate_afterTick_par]
  exact add_two_eq_iff_of_dvd hlt (hs.three_le_cyclesSample hdac) (Nat.add_modEq_left_iff.1 hcount)

/-- Settles O50: a sequencer in step is in LATCH where the counter shows `cycles - 2`, from the first pulse on. -/
theorem updateComesOncePerSamplePeriod : Obligations.UpdateComesOncePerSamplePeriod := by
  intro s k hs hdac hwait
  refine ⟨_, hs.ran_eq k, ?_⟩
  rcases Nat.le_total k s.regs.cntSample with hbefore | hafter
  · obtain ⟨hseq, -⟩ := State.waits_until_pulse hdac hwait hbefore
    rw [hseq]
    exact ⟨nofun, fun ⟨hk, _⟩ => absurd hk (by omega)⟩
  · obtain ⟨j, rfl⟩ := Nat.exists_eq_add_of_le hafter
    have hmod : 2 % s.par.cyclesSample = 2 := Nat.mod_eq_of_lt (hs.three_le_cyclesSample hdac)
    have hshift : (s.regs.cntSample + j) % s.par.cyclesSample = (s.regs.cntSample + 2) % s.par.cyclesSample ↔
        j % s.par.cyclesSample = 2 % s.par.cyclesSample := Nat.ModEq.add_iff_left rfl
    rw [hs.seq_eq_latch_iff_of_wait hdac hwait, Nat.add_le_add_iff_left, hshift, hmod]

end Sys2Proof.Machine

namespace Sys2Proof.Machine

/-! ## The level meter (45_level_meter.md)

### The operations of its input side (R251 to R253) -/

theorem Fifo.isFull_eq_false_iff {q : Fifo} : q.isFull = false ↔ q.items.length ≠ 16 := beq_eq_false_iff_ne

/-- The control word of the meter's input side (R107). -/
theorem State.controlWord_vui {s : State} {v full : Bool} (hvalid : s.inp.vuValid = v)
    (hfull : s.regs.vq.isFull = full) : s.controlWord .vui = some (packBits [v, full]) := by
  rw [State.controlWord, hvalid, hfull]

/-- What the meter's input side shows during a tick (R254). -/
theorem State.driveVuIn_eq {s : State} {full : Bool} (hfull : s.regs.vq.isFull = full) :
    s.driveVuIn = { s with out := { s.out with vuInReady := !full } } := by
  rw [State.driveVuIn, hfull]

theorem exec_vuPush {s : State} (hvalid : s.inp.vuValid = true) (hfull : s.regs.vq.isFull = false) :
    exec .vuPush s = .next (s.driveVuIn.write fun n => { n with vq := n.vq.append s.vuSample }) :=
  State.perform_of_selected (i := .vuPush) (State.controlWord_vui hvalid hfull)

theorem exec_vuReject {s : State} (hvalid : s.inp.vuValid = true) (hfull : s.regs.vq.isFull = true) :
    exec .vuReject s = .next s.driveVuIn :=
  State.perform_of_selected (i := .vuReject) (State.controlWord_vui hvalid hfull)

theorem exec_vuNopush {s : State} (hvalid : s.inp.vuValid = false) :
    exec (.vuNopush s.regs.vq.isFull) s = .next s.driveVuIn :=
  State.perform_of_selected (i := .vuNopush s.regs.vq.isFull) (State.controlWord_vui hvalid rfl)

/-- Settles O53: `in_valid` and the occupancy of VQ are the two bits of the control word. -/
theorem meterInputOperations : Obligations.MeterInputOperations := by
  refine ⟨rfl, rfl, by decide, fun s hvalid hroom => ?_, fun s hvalid hlen => ?_, fun s hvalid => ?_⟩
  · have hfull := Fifo.isFull_eq_false_iff.2 hroom
    rw [exec_vuPush hvalid hfull, State.driveVuIn_eq hfull]
    rfl
  · have hfull := s.regs.vq.isFull_iff.2 hlen
    rw [exec_vuReject hvalid hfull, State.driveVuIn_eq hfull]
    rfl
  · exact exec_vuNopush hvalid

/-! ### The operations of its output side (R255, R257, R263) -/

theorem Fifo.isEmpty_eq_false_of_cons {q : Fifo} {x : Pattern} {xs : List Pattern} (h : q.items = x :: xs) :
    q.isEmpty = false := by
  rw [Fifo.isEmpty, h, List.isEmpty_cons]

/-- The control word of the meter's output side (R107). -/
theorem State.controlWord_vuo {s : State} {t empty : Bool} (ht : s.sampleTick = t)
    (hempty : s.regs.vq.isEmpty = empty) : s.controlWord .vuo = some (packBits [t, empty]) := by
  rw [State.controlWord, ht, hempty]

theorem exec_vuPop {s : State} (ht : s.sampleTick = true) (hempty : s.regs.vq.isEmpty = false) :
    exec .vuPop s = .next
      (s.driveVuOut.write fun n => { n with vq := n.vq.pop, mag := rectify s.par s.regs.vq.payload }) :=
  State.perform_of_selected (i := .vuPop) (State.controlWord_vuo ht hempty)

theorem exec_vuStarve {s : State} (ht : s.sampleTick = true) (hempty : s.regs.vq.isEmpty = true) :
    exec .vuStarve s = .next s.driveVuOut :=
  State.perform_of_selected (i := .vuStarve) (State.controlWord_vuo ht hempty)

theorem exec_vuKeep {s : State} (ht : s.sampleTick = false) :
    exec (.vuKeep s.regs.vq.isEmpty) s = .next s.driveVuOut :=
  State.perform_of_selected (i := .vuKeep s.regs.vq.isEmpty) (State.controlWord_vuo ht rfl)

/-- Settles O54: `sample_tick` and the emptiness of VQ are the two bits of the control word. -/
theorem meterOutputOperations : Obligations.MeterOutputOperations := by
  refine ⟨rfl, rfl, by decide, fun s x y last xs ys hcnt hitems hnext => ?_, fun s hcnt hitems => ?_,
    fun s hcnt => ?_⟩
  · have hpayload : s.regs.vq.payload = x := by rw [Fifo.payload, hitems, List.headD_cons]
    have hpop : s.next.vq.pop = ⟨ys, y⟩ := by rw [hnext, Fifo.pop_cons]
    rw [exec_vuPop (State.sampleTick_eq_true_iff.2 hcnt) (Fifo.isEmpty_eq_false_of_cons hitems), hpayload, ← hpop]
    rfl
  · exact exec_vuStarve (State.sampleTick_eq_true_iff.2 hcnt) (s.regs.vq.isEmpty_iff.2 hitems)
  · exact exec_vuKeep (State.sampleTick_eq_false_iff.2 hcnt)

/-! ### The rectifier (R256) -/

theorem rectify_signed {p : Params} (hsigned : p.signed = true) (v : Pattern) :
    rectify p v = (signedVal p.bits v).natAbs := if_pos hsigned

theorem rectify_unsigned {p : Params} (hunsigned : p.signed = false) (v : Pattern) : rectify p v = v := by
  simp [rectify, hunsigned]

/-- The most negative pattern stands for minus half scale (R10). -/
theorem signedVal_half {n : Nat} (hn : 0 < n) : signedVal n (2 ^ (n - 1)) = -((2 ^ (n - 1) : Nat) : Int) := by
  have hdouble : (2 : Int) * 2 ^ (n - 1) = 2 ^ n := mul_pow_sub_one hn.ne' 2
  rw [signedVal, if_neg (lt_irrefl _), ← hdouble]
  push_cast
  ring

/-- Settles O55: the rectifier takes the absolute value over the integers, where `-2^(b-1)` has one. -/
theorem rectifierIsTheAbsoluteValue : Obligations.RectifierIsTheAbsoluteValue := by
  intro p v hv
  refine ⟨fun hsigned => ?_, fun hunsigned => rectify_unsigned hunsigned v⟩
  rw [rectify_signed hsigned, rectify_signed hsigned]
  refine ⟨Int.natCast_natAbs _, natAbs_signedVal_le p.bits_pos hv, ?_⟩
  rw [signedVal_half p.bits_pos, Int.natAbs_neg, Int.natAbs_natCast]

/-! ### LIT and LEVEL (R259 to R261) -/

theorem litOf_cons (t : Nat) (ts : List Nat) (mag : Pattern) :
    litOf (t :: ts) mag = Nat.bit (decide (t ≤ mag)) (litOf ts mag) := by
  rw [litOf, Nat.bit_val, Nat.add_comm]

theorem levelOf_cons (t : Nat) (ts : List Nat) (mag : Pattern) :
    levelOf (t :: ts) mag = levelOf ts mag + (decide (t ≤ mag)).toNat := by
  rw [levelOf, List.countP_cons, Bool.toNat, Bool.cond_eq_ite]
  rfl

/-- R259: bit n of LIT. -/
theorem testBit_litOf (mag : Pattern) :
    ∀ (th : List Nat) (n : Nat), (litOf th mag).testBit n = th[n]?.any fun t => decide (t ≤ mag)
  | [], n => by simp [litOf]
  | t :: ts, 0 => by rw [litOf_cons, Nat.testBit_bit_zero]; rfl
  | t :: ts, n + 1 => by rw [litOf_cons, Nat.testBit_bit_succ, testBit_litOf mag ts n]; rfl

/-- R260: LEVEL counts the bits of LIT. -/
theorem levelOf_eq_countP_testBit (mag : Pattern) :
    ∀ th : List Nat, levelOf th mag = (List.range th.length).countP fun n => (litOf th mag).testBit n
  | [] => rfl
  | t :: ts => by
    rw [levelOf_cons, levelOf_eq_countP_testBit mag ts, List.length_cons, List.range_succ_eq_map, List.countP_cons,
      List.countP_map, litOf_cons, Nat.testBit_bit_zero, Bool.toNat, Bool.cond_eq_ite]
    simp only [Function.comp_def, Nat.testBit_bit_succ]

/-- On non-decreasing thresholds the lit segments are the first ones: above a threshold that is not reached none is. -/
theorem litOf_eq_two_pow_levelOf_sub_one {mag : Pattern} :
    ∀ {th : List Nat}, th.Pairwise (· ≤ ·) → litOf th mag = 2 ^ levelOf th mag - 1
  | [], _ => rfl
  | t :: ts, h => by
    obtain ⟨hle, hts⟩ := List.pairwise_cons.1 h
    rw [litOf_cons, levelOf_cons, litOf_eq_two_pow_levelOf_sub_one hts, Nat.bit_val]
    by_cases ht : t ≤ mag
    · have hpos := Nat.two_pow_pos (levelOf ts mag)
      rw [decide_eq_true ht, Bool.toNat_true, pow_succ]
      omega
    · have hdark : levelOf ts mag = 0 := List.countP_eq_zero.2 fun u hu => by
        simpa using (Nat.not_le.1 ht).trans_le (hle u hu)
      rw [decide_eq_false ht, hdark]
      rfl

/-- R261: the level does not fall as the magnitude rises. -/
theorem levelOf_mono (th : List Nat) {mag more : Pattern} (h : mag ≤ more) : levelOf th mag ≤ levelOf th more :=
  List.countP_mono_left fun _ _ ht => decide_eq_true ((of_decide_eq_true ht).trans h)

/-- Settles O56, by induction on the thresholds: each one adds a bit to LIT below those of the ones after it. -/
theorem barFillsFromBelow : Obligations.BarFillsFromBelow := fun th mag =>
  ⟨testBit_litOf mag th, (levelOf_eq_countP_testBit mag th).trans List.countP_eq_length_filter,
    litOf_eq_two_pow_levelOf_sub_one, fun _ => levelOf_mono th⟩

/-! ### The logarithmic scale (R258) -/

/-- Where segment i of g stands on the scale up to m, before it is rounded down: `pow(G, s/G) / G * M`. -/
noncomputable def logScale (g i m : Nat) : ℝ := (g : ℝ) ^ ((i : ℝ) / g) / g * m

theorem logScale_nonneg (g i m : Nat) : 0 ≤ logScale g i m := by
  unfold logScale
  positivity

/-- Full scale is the end of the scale, where `i = g`. -/
theorem logScale_le {g i : Nat} (hi : i < g) (m : Nat) : logScale g i m ≤ m := by
  have hpos : (0 : ℝ) < g := Nat.cast_pos.2 (Nat.zero_lt_of_lt hi)
  have hone : (1 : ℝ) ≤ g := Nat.one_le_cast.2 (Nat.one_le_of_lt hi)
  have hexp : (i : ℝ) / g ≤ 1 := (div_le_one hpos).2 (Nat.cast_le.2 hi.le)
  have hpart : (g : ℝ) ^ ((i : ℝ) / g) / g ≤ 1 := (div_le_one hpos).2 (Real.rpow_le_self_of_one_le hone hexp)
  exact mul_le_of_le_one_left (Nat.cast_nonneg m) hpart

/-- Raised to the power g, the scale is rational: this is where the integer form of R258 comes from. -/
theorem logScale_pow_mul {g i : Nat} (hi : i < g) (m : Nat) :
    logScale g i m ^ g * (g : ℝ) ^ (g - i) = (m : ℝ) ^ g := by
  have hg : (g : ℝ) ≠ 0 := Nat.cast_ne_zero.2 (Nat.ne_zero_of_lt hi)
  have hroot : ((g : ℝ) ^ ((i : ℝ) / g)) ^ g = (g : ℝ) ^ i := by
    rw [← Real.rpow_mul_natCast (Nat.cast_nonneg g), div_mul_cancel₀ _ hg, Real.rpow_natCast]
  have hsplit : (g : ℝ) ^ i * (g : ℝ) ^ (g - i) = (g : ℝ) ^ g := pow_mul_pow_sub _ hi.le
  rw [logScale, mul_pow, div_pow, hroot, mul_right_comm, div_mul_eq_mul_div, hsplit, div_self (pow_ne_zero _ hg),
    one_mul]

/-- The condition of the search compares with the scale. -/
theorem pow_mul_pow_le_iff_le_logScale {g i : Nat} (hi : i < g) (m v : Nat) :
    v ^ g * g ^ (g - i) ≤ m ^ g ↔ (v : ℝ) ≤ logScale g i m := by
  have hpos : (0 : ℝ) < (g : ℝ) ^ (g - i) := pow_pos (Nat.cast_pos.2 (Nat.zero_lt_of_lt hi)) _
  rw [← Nat.cast_le (α := ℝ)]
  push_cast
  rw [← logScale_pow_mul hi m, mul_le_mul_iff_left₀ hpos,
    pow_le_pow_iff_left₀ (Nat.cast_nonneg v) (logScale_nonneg g i m) (Nat.ne_zero_of_lt hi)]

theorem threshold_eq_floor {g i : Nat} (b : Nat) (hi : i < g) :
    threshold g b i = ⌊logScale g i (2 ^ (b - 1) - 1)⌋₊ := by
  have hfull : ((2 ^ (b - 1) - 1 : Nat) : ℝ) < 2 ^ (b - 1) := by
    exact_mod_cast Nat.sub_lt (Nat.two_pow_pos (b - 1)) one_pos
  rw [threshold_eq]
  exact searchLargest_eq_floor (fun t => decide_eq_true_iff.trans (pow_mul_pow_le_iff_le_logScale hi _ t))
    (logScale_nonneg ..) ((logScale_le hi _).trans_lt hfull)

/-- The integer form of R258, for every candidate, those beyond the range of the search too. -/
theorem le_threshold_iff {g i : Nat} (b : Nat) (hi : i < g) (v : Nat) :
    v ≤ threshold g b i ↔ v ^ g * g ^ (g - i) ≤ (2 ^ (b - 1) - 1) ^ g := by
  rw [threshold_eq_floor b hi, Nat.le_floor_iff (logScale_nonneg ..), pow_mul_pow_le_iff_le_logScale hi]

theorem threshold_cast_eq_floor {g i : Nat} (b : Nat) (hi : i < g) :
    (threshold g b i : ℤ) = ⌊logScale g i (2 ^ (b - 1) - 1)⌋ := by
  rw [threshold_eq_floor b hi, Int.natCast_floor_eq_floor (logScale_nonneg ..)]

theorem cfgLogscale_getElem? {g i : Nat} (b : Nat) (hi : i < g) : (cfgLogscale g b)[i]? = some (threshold g b i) := by
  simp [cfgLogscale, hi]

/-- A constructed machine holds the thresholds of its configuration (R345). -/
theorem th_of_construct {cfg : Config} {s : State} (h : construct cfg = .ok s) :
    s.par.th = cfgLogscale cfg.segments cfg.bitDepth := by
  obtain ⟨p, hp, rfl⟩ := construct_eq_ok_iff.1 h
  obtain ⟨d, hdepth, -, cs, -, -, -, cp, -, -, -, -, rfl⟩ := setupParams_eq_ok_iff.1 hp
  rw [← bits_of_checkDepth hdepth]
  rfl

/-- Settles O57: the integer search compares with the real scale, and construction stores what it finds. -/
theorem thresholdsAreTheFloorsOfTheLogScale : Obligations.ThresholdsAreTheFloorsOfTheLogScale := by
  refine ⟨?_, fun cfg s h => ?_⟩
  · rintro g b i m - - hi rfl
    exact ⟨threshold_cast_eq_floor b hi, le_threshold_iff b hi⟩
  · rw [th_of_construct h]
    refine ⟨cfgLogscale_length .., fun i hi => ⟨_, cfgLogscale_getElem? _ hi, ?_⟩⟩
    rw [threshold_cast_eq_floor _ hi, logScale, Nat.cast_sub Nat.one_le_two_pow]
    push_cast
    rfl

/-- R258: the first threshold is `floor(M / G)`. -/
theorem threshold_zero {g : Nat} (b : Nat) (hg : 0 < g) : threshold g b 0 = (2 ^ (b - 1) - 1) / g :=
  eq_of_forall_le_iff fun v => by
    rw [le_threshold_iff b hg, Nat.sub_zero, ← mul_pow, Nat.pow_le_pow_iff_left hg.ne', Nat.le_div_iff_mul_le hg]

/-- Settles O58: the scale rises with the segment, and starts at `M / G`. -/
theorem thresholdsAreNonDecreasingWithinFullScale : Obligations.ThresholdsAreNonDecreasingWithinFullScale := by
  rintro g b m hg - rfl
  refine ⟨cfgLogscale_length g b, cfgLogscale_pairwise hg,
    fun v hv => Nat.le_sub_one_of_lt (lt_of_mem_cfgLogscale hv), ?_⟩
  rw [List.head?_eq_getElem?, cfgLogscale_getElem? b hg, threshold_zero b hg]

end Sys2Proof.Machine

namespace Sys2Proof.Machine

/-! ## The feedback computer (46_feedback_computer.md) -/

/-- A byte of the low `n` bits of a value is eight of its bits (R69). -/
theorem byteAt_toNat {n : Nat} (x : BitVec n) (k : Nat) : byteAt x.toNat k = x.extractLsb' (8 * k) 8 := by
  rw [byteAt, ← Nat.shiftRight_eq_div_pow]
  rfl

/-- The control word of the feedback computer is the index on its port (R108). -/
theorem exec_fbRead (s : State) : exec (.fbRead s.inp.fbIndex) s =
    .next { s with out := { s.out with fbByte := feedbackByte s.par.fb s.inp.fbIndex } } :=
  State.perform_of_selected (i := .fbRead s.inp.fbIndex) rfl

/-- Settles O59: the operation that the index selects gives the byte of that index. -/
theorem feedbackReadOperation : Obligations.FeedbackReadOperation := by
  refine ⟨by decide, fun s => ?_⟩
  rw [exec_fbRead, feedbackByte, byteAt_toNat]

/-! ### CFG.FB (R281, R282) -/

theorem roundHalfEven_nonneg {x : Rat} (hx : 0 ≤ x) : 0 ≤ roundHalfEven x := by
  obtain ⟨hnear, -⟩ := roundIsNearestTiesToEven x
  have hround : (-1 : Rat) < roundHalfEven x := by linarith [(abs_le.1 hnear).2]
  exact Int.lt_iff_add_one_le.1 (by exact_mod_cast hround)

/-- For a rate that is not negative the truncation to `Nat` changes nothing. -/
theorem cfgFb_cast {rate : Rat} (hrate : 0 ≤ rate) (shift : Nat) :
    (cfgFb rate shift : Int) = roundHalfEven (rate / 8000 * 2 ^ shift) :=
  Int.toNat_of_nonneg (roundHalfEven_nonneg (by positivity))

/-- A constructed machine holds the feedback value of its configuration, whole: its rate is positive and the value
fits 32 bits (R304). -/
theorem fb_of_construct {cfg : Config} {s : State} (h : construct cfg = .ok s) :
    0 < cfg.sampleRateHz ∧ s.par.fb.toNat = cfgFb cfg.sampleRateHz cfg.fbShift := by
  obtain ⟨p, hp, rfl⟩ := construct_eq_ok_iff.1 h
  obtain ⟨d, -, hcheck, cs, -, -, -, cp, -, -, -, hfit, rfl⟩ := setupParams_eq_ok_iff.1 hp
  obtain ⟨-, -, -, -, -, -, hrate, -⟩ := checkParams_eq_ok_iff.1 hcheck
  exact ⟨hrate, (BitVec.toNat_ofNat ..).trans (Nat.mod_eq_of_lt hfit)⟩

/-- R8: a run of a constructed machine, on any trace, keeps construction's constants. -/
theorem par_eq_of_construct_of_ran {cfg : Config} {made t : State} {xs : List Inputs} {k : Nat}
    (hmade : construct cfg = .ok made) (hran : { made with stimulus := xs }.ran k = some t) : t.par = made.par := by
  have hok : State.Ok { made with stimulus := xs } := constructedMachinesAreInRange cfg made hmade
  obtain rfl := Option.some_inj.1 ((hok.ran_eq k).symm.trans hran)
  exact State.iterate_afterTick_par _ k

/-- Settles O60: construction stores the rounded value, no tick changes it, and rounding is to the nearest. -/
theorem feedbackValueIsTheRoundedRate : Obligations.FeedbackValueIsTheRoundedRate := by
  rintro cfg made _ t xs k hmade rfl hran
  obtain ⟨hrate, hfb⟩ := fb_of_construct hmade
  have hround : (t.par.fb.toNat : Int) = roundHalfEven (cfg.sampleRateHz / 8000 * 2 ^ cfg.fbShift) := by
    rw [par_eq_of_construct_of_ran hmade hran, hfb, cfgFb_cast hrate.le]
  obtain ⟨hnear, -⟩ := roundIsNearestTiesToEven (cfg.sampleRateHz / 8000 * 2 ^ cfg.fbShift)
  refine ⟨hround, ?_⟩
  rw [← Int.cast_natCast, hround, abs_sub_comm]
  exact hnear

end Sys2Proof.Machine

namespace Sys2Proof.Machine

/-! ## The configurations that construction accepts (R300 to R304, R345)

`CFG.CHECK` in the words of R304: what each check demands, with no truncation of the rates to `Nat`. -/

theorem checkDepth_eq_ok_iff {cfg : Config} {d : BitDepth} : checkDepth cfg = .ok d ↔ d.bits = cfg.bitDepth := by
  refine ⟨bits_of_checkDepth, fun h => ?_⟩
  rw [checkDepth, ← h]
  cases d <;> rfl

/-- The depths of R302 are the four that the model has. -/
theorem exists_bits_eq_iff {n : Nat} : (∃ d : BitDepth, d.bits = n) ↔ n = 8 ∨ n = 16 ∨ n = 24 ∨ n = 32 := by
  constructor
  · rintro ⟨d, rfl⟩
    cases d <;> decide
  · rintro (rfl | rfl | rfl | rfl)
    exacts [⟨.d8, rfl⟩, ⟨.d16, rfl⟩, ⟨.d24, rfl⟩, ⟨.d32, rfl⟩]

/-- R91 read off BIT_DEPTH itself. -/
theorem BitDepth.subslot_eq (d : BitDepth) : d.subslot = if d.bits = 24 then 4 else d.bits / 8 := by
  cases d <;> rfl

/-- The two checks on TABLE_LENGTH ask for a power of two whose exponent PHI_BITS can hold (R304). -/
theorem two_pow_log2_eq_and_le_iff {n m : Nat} : 2 ^ n.log2 = n ∧ n.log2 ≤ m ↔ ∃ k, n = 2 ^ k ∧ k ≤ m := by
  constructor
  · rintro ⟨hpow, hle⟩
    exact ⟨n.log2, hpow.symm, hle⟩
  · rintro ⟨k, rfl, hle⟩
    rw [Nat.log2_two_pow]
    exact ⟨rfl, hle⟩

/-- For a positive rate the bandwidth check of R303 compares with the number of bytes as it is. -/
theorem requiredBytes_le_iff {cfg : Config} {d : BitDepth} (hrate : 0 < cfg.sampleRateHz) :
    requiredBytes cfg d ≤ cfg.maxPacketSize ↔
      ⌈cfg.sampleRateHz / 8000⌉ * cfg.channels * d.subslot ≤ (cfg.maxPacketSize : Int) := by
  have hceil : (cfg.sampleRateHz / 8000).ceil = ⌈cfg.sampleRateHz / 8000⌉ := Rat.ceil_eq_neg_floor_neg _
  have hnonneg : 0 ≤ ⌈cfg.sampleRateHz / 8000⌉ := Int.ceil_nonneg (by positivity)
  rw [← Int.ofNat_le, requiredBytes, hceil, Nat.cast_mul, Nat.cast_mul, Int.toNat_of_nonneg hnonneg]

/-- For a positive rate the check on FB compares with the rounded value as it is (R304). -/
theorem cfgFb_lt_iff {rate : Rat} (hrate : 0 < rate) (shift : Nat) :
    cfgFb rate shift < 2 ^ 32 ↔ roundHalfEven (rate / 8000 * 2 ^ shift) < 2 ^ 32 := by
  rw [← cfgFb_cast hrate.le]
  omega

/-- A quotient of positive rates is no divisor below 1. -/
theorem one_le_of_div_eq {m t : Rat} {c : Nat} (hm : 0 < m) (ht : 0 < t) (h : m / t = c) : 1 ≤ c :=
  Nat.cast_pos.1 (h ▸ div_pos hm ht)

/-- The steps of R345, each on its own: construction needs a depth and two divisors that pass their checks. -/
theorem exists_construct_eq_ok_iff {cfg : Config} : (∃ s, construct cfg = .ok s) ↔
    ∃ d, checkDepth cfg = .ok d ∧ checkParams cfg d = .ok () ∧
      (∃ cs, cfgRdiv .sample cfg.masterHz cfg.sampleRateHz 0 = .ok cs ∧ cfg.divInitSample < cs ∧
        (cfg.hasDac = true → 3 ≤ cs)) ∧
      (∃ cp, cfgRdiv .pulse cfg.masterHz cfg.pulseRateHz cfg.pulseMaxPpm = .ok cp ∧ cfg.divInitPulse < cp) ∧
      requiredBytes cfg d ≤ cfg.maxPacketSize ∧ cfgFb cfg.sampleRateHz cfg.fbShift < 2 ^ 32 := by
  constructor
  · rintro ⟨s, hs⟩
    obtain ⟨p, hp, -⟩ := construct_eq_ok_iff.1 hs
    obtain ⟨d, hdepth, hcheck, cs, hcs, hdac, hinit, cp, hcp, hinit', hband, hfb, -⟩ := setupParams_eq_ok_iff.1 hp
    exact ⟨d, hdepth, hcheck, ⟨cs, hcs, hinit, hdac⟩, ⟨cp, hcp, hinit'⟩, hband, hfb⟩
  · rintro ⟨d, hdepth, hcheck, ⟨cs, hcs, hinit, hdac⟩, ⟨cp, hcp, hinit'⟩, hband, hfb⟩
    exact ⟨_, construct_eq_ok_iff.2 ⟨_, setupParams_eq_ok_iff.2
      ⟨d, hdepth, hcheck, cs, hcs, hdac, hinit, cp, hcp, hinit', hband, hfb, rfl⟩, rfl⟩⟩

/-- Settles O20: each check in the words of R304; the rates are positive by the time the dividers are checked. -/
theorem constructionSucceedsIffValid : Obligations.ConstructionSucceedsIffValid := by
  intro cfg
  rw [exists_construct_eq_ok_iff, ← exists_bits_eq_iff]
  constructor
  · rintro ⟨d, hdepth, hcheck, ⟨cs, hcs, hinit, hdac⟩, ⟨cp, hcp, hinit'⟩, hband, hfb⟩
    obtain ⟨hpow, ⟨hphi, hindex⟩, ⟨hgain0, hgain1⟩, ⟨hchan, hmux⟩, hseg, hm, hrate, hpulse, hppm, hshift, hfifo,
      hphase, hlen, hacc⟩ := checkParams_eq_ok_iff.1 hcheck
    have hbits := checkDepth_eq_ok_iff.1 hdepth
    have hquot := (zeroToleranceAcceptsIntegerQuotientsOnly _ _ _ cs hm hrate).1 hcs
    obtain ⟨hround, hpos, hdev⟩ := (dividerBuiltIffRoundedDivisorWithinTolerance _ _ _ _ cp hm hpulse).1 hcp
    rw [requiredBytes_le_iff hrate, d.subslot_eq, hbits] at hband
    rw [hbits] at hacc
    exact ⟨⟨d, hbits⟩, two_pow_log2_eq_and_le_iff.1 ⟨hpow, hindex⟩, hphi, hgain0, hgain1, hchan, hmux, hseg, hm,
      hrate, hpulse, hppm, hshift, hfifo, hphase, hlen, hacc,
      ⟨cs, hquot, one_le_of_div_eq hm hrate hquot, hinit, hdac⟩, ⟨cp, hround, hpos, hinit', hdev⟩, hband,
      (cfgFb_lt_iff hrate _).1 hfb⟩
  · rintro ⟨⟨d, hbits⟩, htable, hphi, hgain0, hgain1, hchan, hmux, hseg, hm, hrate, hpulse, hppm, hshift, hfifo,
      hphase, hlen, hacc, ⟨cs, hquot, -, hinit, hdac⟩, ⟨cp, hround, hpos, hinit', hdev⟩, hband, hfb⟩
    obtain ⟨hpow, hindex⟩ := two_pow_log2_eq_and_le_iff.2 htable
    rw [← hbits, ← d.subslot_eq, ← requiredBytes_le_iff hrate] at hband
    rw [← hbits] at hacc
    exact ⟨d, checkDepth_eq_ok_iff.2 hbits,
      checkParams_eq_ok_iff.2 ⟨hpow, ⟨hphi, hindex⟩, ⟨hgain0, hgain1⟩, ⟨hchan, hmux⟩, hseg, hm, hrate, hpulse, hppm,
        hshift, hfifo, hphase, hlen, hacc⟩,
      ⟨cs, (zeroToleranceAcceptsIntegerQuotientsOnly _ _ _ cs hm hrate).2 hquot, hinit, hdac⟩,
      ⟨cp, (dividerBuiltIffRoundedDivisorWithinTolerance _ _ _ _ cp hm hpulse).2 ⟨hround, hpos, hdev⟩, hinit'⟩,
      hband, (cfgFb_lt_iff hrate _).2 hfb⟩

/-! ### Which check refuses a bit depth (R302, R310) -/

/-- The check does not refuse a bit depth: it passes, or it refuses something else. -/
def AcceptsDepth {α : Type} (x : Except ConfigError α) : Prop := ∀ v, x ≠ .error (.eBitDepth v)

theorem acceptsDepth_ok {α : Type} (a : α) : AcceptsDepth (.ok a) := nofun

theorem AcceptsDepth.bind {α β : Type} {x : Except ConfigError α} {f : α → Except ConfigError β}
    (hx : AcceptsDepth x) (hf : ∀ a, AcceptsDepth (f a)) : AcceptsDepth (x >>= f) := by
  cases x with
  | error e => exact fun v h => hx v (congrArg Except.error (Except.error.inj h))
  | ok a => exact hf a

theorem acceptsDepth_demand {ok : Bool} {e : ConfigError} (he : ∀ v, e ≠ .eBitDepth v) :
    AcceptsDepth (demand ok e) := by
  cases ok with
  | false => exact fun v h => he v (Except.error.inj h)
  | true => exact acceptsDepth_ok ()

theorem acceptsDepth_demand_bind {β : Type} {ok : Bool} {e : ConfigError} {f : Unit → Except ConfigError β}
    (he : ∀ v, e ≠ .eBitDepth v) (hf : AcceptsDepth (f ())) : AcceptsDepth (demand ok e >>= f) :=
  (acceptsDepth_demand he).bind fun _ => hf

/-- The parameter checks refuse with E_CONFIG. -/
theorem acceptsDepth_checkParams (cfg : Config) (d : BitDepth) : AcceptsDepth (checkParams cfg d) := by
  unfold checkParams
  iterate 13 refine acceptsDepth_demand_bind nofun ?_
  cases firstBadAcc d.bits 0 cfg.accInit with
  | none => exact acceptsDepth_ok ()
  | some bad => exact nofun

/-- CFG.RDIV refuses with E_RATE. -/
theorem acceptsDepth_cfgRdiv (which : Divider) (m t ppm : Rat) : AcceptsDepth (cfgRdiv which m t ppm) := by
  intro v
  simp only [cfgRdiv]
  split_ifs <;> nofun

theorem checkDepth_eq_error_iff {cfg : Config} {v : Nat} : checkDepth cfg = .error (.eBitDepth v) ↔
    v = cfg.bitDepth ∧ cfg.bitDepth ∉ [8, 16, 24, 32] := by
  unfold checkDepth
  split_ifs with h8 h16 h24 h32
  · exact iff_of_false nofun (by simp [h8])
  · exact iff_of_false nofun (by simp [h16])
  · exact iff_of_false nofun (by simp [h24])
  · exact iff_of_false nofun (by simp [h32])
  · simp [h8, h16, h24, h32, eq_comm]

/-- A check whose rest accepts the depth refuses a bit depth only by itself. -/
theorem bind_eq_error_eBitDepth_iff {α β : Type} {x : Except ConfigError α} {f : α → Except ConfigError β} {v : Nat}
    (hf : ∀ a, AcceptsDepth (f a)) : x >>= f = .error (.eBitDepth v) ↔ x = .error (.eBitDepth v) := by
  cases x with
  | error e =>
    exact ⟨fun h => congrArg Except.error (Except.error.inj h), fun h => congrArg Except.error (Except.error.inj h)⟩
  | ok a => exact iff_of_false (hf a v) nofun

/-- Past the first step of R345 no check refuses a bit depth. -/
theorem setupParams_eq_error_eBitDepth_iff {cfg : Config} {v : Nat} :
    setupParams cfg = .error (.eBitDepth v) ↔ checkDepth cfg = .error (.eBitDepth v) := by
  refine bind_eq_error_eBitDepth_iff fun d => ?_
  refine (acceptsDepth_checkParams cfg d).bind fun _ => (acceptsDepth_cfgRdiv _ _ _ _).bind fun cs => ?_
  refine acceptsDepth_demand_bind nofun (acceptsDepth_demand_bind nofun ?_)
  refine (acceptsDepth_cfgRdiv _ _ _ _).bind fun cp => ?_
  exact acceptsDepth_demand_bind nofun (acceptsDepth_demand_bind nofun (acceptsDepth_demand_bind nofun
    (acceptsDepth_ok _)))

/-- Settles O21: the first check of R345 alone refuses a bit depth, and R316 gives that refusal code 2. -/
theorem unsupportedDepthIsRefusedFirst : Obligations.UnsupportedDepthIsRefusedFirst := by
  intro cfg v
  have hcode : (ConfigError.eBitDepth v).code = 2 := rfl
  calc construct cfg = .error (.eBitDepth v)
      ↔ setupParams cfg = .error (.eBitDepth v) := bind_eq_error_eBitDepth_iff fun _ => acceptsDepth_ok _
    _ ↔ checkDepth cfg = .error (.eBitDepth v) := setupParams_eq_error_eBitDepth_iff
    _ ↔ v = cfg.bitDepth ∧ cfg.bitDepth ∉ [8, 16, 24, 32] := checkDepth_eq_error_iff
    _ ↔ v = cfg.bitDepth ∧ cfg.bitDepth ∉ [8, 16, 24, 32] ∧ (ConfigError.eBitDepth v).code = 2 := by
      rw [and_iff_left hcode]

/-! ## Runs never stop (R305) -/

theorem State.iterate_afterTick_tick (s : State) (k : Nat) : (State.afterTick^[k] s).tick = s.tick + k := by
  induction k with
  | zero => rfl
  | succ k ih =>
    rw [Function.iterate_succ_apply']
    exact congrArg (· + 1) ih

/-- Settles O10: a run is the synchronous update iterated, which keeps the ranges and the constants. -/
theorem runsNeverStop : Obligations.RunsNeverStop := fun s k hs =>
  ⟨_, hs.ran_eq k, hs.iterate_afterTick k, s.iterate_afterTick_par k, s.iterate_afterTick_tick k⟩

/-! ## A framing violation against a beat that is not offered (R307, R317) -/

/-- The machine with input `x` on the tick, the demultiplexer's beat withheld, and `xs` after it. -/
def State.withheld (s : State) (x : Inputs) (xs : List Inputs) : State :=
  { s with stimulus := { x with dmxValid := false } :: xs }

/-- With the beat withheld the demultiplexer keeps CHAN and SUB (R173). -/
theorem State.regsAfter_withheld (s : State) (x : Inputs) (xs : List Inputs) :
    (s.withheld x xs).regsAfter.chan = s.regs.chan ∧ (s.withheld x xs).regsAfter.sub = s.regs.sub := by
  have hrow := State.dmxRow_of_not_go (s := s.withheld x xs) rfl
  exact ⟨congrArg DmxRow.chan hrow, congrArg DmxRow.sub hrow⟩

/-- Withholding the beat moves no register but the demultiplexer's (R21). -/
theorem State.regsAfter_eq_withheld {s : State} {x : Inputs} {xs : List Inputs} (h : s.stimulus = x :: xs) :
    s.regsAfter = { (s.withheld x xs).regsAfter with
      dstate := s.dmxRow.dstate, chan := s.dmxRow.chan, sub := s.dmxRow.sub } := by
  obtain ⟨par, regs, next, out, _, tick⟩ := s
  subst h
  rfl

/-- A tick on which the demultiplexer emits nothing shows on the other ports what it shows with the beat withheld. -/
theorem State.outDuring_eq_withheld {s : State} {x : Inputs} {xs : List Inputs} (h : s.stimulus = x :: xs)
    (hemit : s.dmxRow.emit = none) :
    s.outDuring = demuxSilent (s.withheld x xs).outDuring s.par.channels s.dmxRow.inReady
      (s.inp.dmxValid && s.dmxRow.inReady) s.dmxRow.violation := by
  have hsilent : s.outDuring = demuxSilent s.outDuring s.par.channels s.dmxRow.inReady
      (s.inp.dmxValid && s.dmxRow.inReady) s.dmxRow.violation := by
    simp only [State.outDuring, hemit, Option.any_none, Option.map_none, Option.getD_none, Bool.false_and,
      State.perChannel_false]
  rw [hsilent]
  obtain ⟨par, regs, next, out, _, tick⟩ := s
  subst h
  rfl

/-- Settles O38: the two ticks differ in the row of R182 alone, and there both ticks keep CHAN and SUB. -/
theorem framingViolationTouchesNothingElse : Obligations.FramingViolationTouchesNothingElse := by
  rintro s t u x xs k hs hstim hst hpos hgo hfirst ht hu
  obtain rfl : s.inp = x := by simp [State.inp, hstim]
  have hrow := State.dmxRow_of_violation hst hpos hgo hfirst
  have hwithheld : (s.withheld s.inp xs).Ok := hs
  obtain rfl : s.afterTick = t := Host.Outcome.next.inj (hs.step_eq.symm.trans ht)
  obtain rfl : (s.withheld s.inp xs).afterTick = u := Host.Outcome.next.inj (hwithheld.step_eq.symm.trans hu)
  have hregs : s.regsAfter = { (s.withheld s.inp xs).regsAfter with dstate := .error } := by
    obtain ⟨hchan, hsub⟩ := s.regsAfter_withheld s.inp xs
    simp only [State.regsAfter_eq_withheld hstim, hrow, ← hchan, ← hsub]
  have hout : s.outDuring = demuxSilent (s.withheld s.inp xs).outDuring s.par.channels false false true := by
    rw [State.outDuring_eq_withheld hstim (by rw [hrow]), hrow, Bool.and_false]
  rw [State.afterTick, hregs, hout, hstim]
  rfl

end Sys2Proof.Machine

namespace Sys2Proof.Machine

/-! ## Registers hold otherwise (R344)

Which ticks write a register, block by block: on every other tick it keeps its value. -/

/-! ### Demultiplexer -/

/-- In BYTEk a tick leaves CHAN alone or moves it to the channel of the byte on the input, and it leaves SUB alone or
stores that byte as byte `k`. It stores no last byte, and no marked byte past the first. -/
theorem State.dmxRow_chan_sub_of_byte {s : State} {k : Fin 4} (hst : s.regs.dstate = .byte k)
    (hk : k.val < s.par.subslot) :
    (s.dmxRow.chan = s.regs.chan ∨ s.dmxRow.chan = s.byteChannel k) ∧
      (s.dmxRow.sub = s.regs.sub ∨
        (k.val + 1 < s.par.subslot ∧ (k.val = 0 ∨ s.inp.dmxFirst = false)) ∧
          s.dmxRow.sub = s.regs.sub.set k s.inp.dmxByte) := by
  cases hgo : s.go with
  | false =>
    rw [State.dmxRow_of_not_go hgo]
    exact ⟨.inl rfl, .inl rfl⟩
  | true =>
    by_cases hmark : k.val = 0 ∨ s.inp.dmxFirst = false
    · obtain hmore | hlast : k.val + 1 < s.par.subslot ∨ k.val + 1 = s.par.subslot := by omega
      · rw [State.dmxRow_of_store hst hmore hgo hmark]
        exact ⟨.inr rfl, .inr ⟨⟨hmore, hmark⟩, rfl⟩⟩
      · rw [State.dmxRow_of_complete hst hlast hgo hmark]
        exact ⟨.inr rfl, .inl rfl⟩
    · obtain ⟨hpos, hfirst⟩ := not_or.1 hmark
      rw [State.dmxRow_of_violation hst (Nat.pos_of_ne_zero hpos) hgo (eq_true_of_ne_false hfirst)]
      exact ⟨.inl rfl, .inl rfl⟩

/-- In ERROR a tick leaves SUB alone or stores the byte on the input as byte 0. -/
theorem State.dmxRow_sub_of_error {s : State} (hst : s.regs.dstate = .error) :
    s.dmxRow.sub = s.regs.sub ∨ s.dmxRow.sub = s.regs.sub.set 0 s.inp.dmxByte := by
  cases hgo : s.go with
  | false => exact .inl (by rw [State.dmxRow_of_not_go hgo])
  | true => exact .inr (by rw [State.dmxRow_of_error hst hgo])

theorem State.byteChannel_of_pos {s : State} {k : Nat} (hpos : 0 < k) : s.byteChannel k = s.regs.chan :=
  if_neg hpos.ne'

/-- CHAN moves with the first byte of a subframe only (R174 to R177). -/
theorem State.dmxRow_chan_of_middle {s : State} {k : Fin 4} (hst : s.regs.dstate = .byte k) (hk : k.val < s.par.subslot)
    (hpos : 0 < k.val) : s.dmxRow.chan = s.regs.chan := by
  obtain ⟨hkept | hmoved, -⟩ := State.dmxRow_chan_sub_of_byte hst hk
  · exact hkept
  · exact hmoved.trans (State.byteChannel_of_pos hpos)

/-- Neither a last byte nor a marker past the first byte is stored (R176, R177, R183). -/
theorem State.dmxRow_sub_of_last_or_marked {s : State} {k : Fin 4} (hst : s.regs.dstate = .byte k)
    (hk : k.val < s.par.subslot) (h : k.val = s.par.subslot - 1 ∨ 0 < k.val ∧ s.inp.dmxFirst = true) :
    s.dmxRow.sub = s.regs.sub := by
  obtain ⟨-, hkept | ⟨⟨hmore, hmark⟩, -⟩⟩ := State.dmxRow_chan_sub_of_byte hst hk
  · exact hkept
  · obtain hlast | ⟨hpos, hfirst⟩ := h
    · omega
    · simp [hpos.ne', hfirst] at hmark

/-- A tick writes no byte of SUB but the one that DSTATE names. -/
theorem State.dmxRow_sub_getElem?_of_ne {s : State} {j : Nat} (hd : s.par.dstateReachable s.regs.dstate = true)
    (herror : s.regs.dstate = .error → j ≠ 0) (hbyte : ∀ k : Fin 4, s.regs.dstate = .byte k → j ≠ k.val) :
    s.dmxRow.sub[j]? = s.regs.sub[j]? := by
  cases hst : s.regs.dstate with
  | error =>
    obtain hkept | hset := State.dmxRow_sub_of_error hst
    · rw [hkept]
    · rw [hset, List.getElem?_set_ne (herror hst).symm]
  | byte k =>
    rw [hst, Params.dstateReachable_byte] at hd
    obtain ⟨-, hkept | ⟨-, hset⟩⟩ := State.dmxRow_chan_sub_of_byte hst hd
    · rw [hkept]
    · rw [hset, List.getElem?_set_ne (hbyte k hst).symm]

/-! ### Oscillator and multiplexer -/

theorem State.phaseAfter_of_not_ready {s : State} (h : s.inp.ncoReady = false) : s.phaseAfter = s.regs.phase := by
  simp [State.phaseAfter, h]

theorem State.offAfter_hold {s : State} (h : s.par.hasMux = false ∨ s.inp.muxReady = false) :
    s.offAfter = s.regs.off := by
  obtain hmux | hready := h
  · exact (State.muxRegs_eq_of_not_hasMux hmux).2
  · exact State.offAfter_of_not_ready hready

/-- SEL moves on the last byte of a subframe only (R206). -/
theorem State.selAfter_hold {s : State}
    (h : s.par.hasMux = false ∨ s.inp.muxReady = false ∨ s.regs.off.toNat ≠ s.par.subslot - 1) :
    s.selAfter = s.regs.sel := by
  obtain hmux | hready | hoff := h
  · exact (State.muxRegs_eq_of_not_hasMux hmux).1
  · exact State.selAfter_of_not_ready hready
  · have hlast : s.atLastOffset = false := beq_false_of_ne hoff
    simp [State.selAfter, State.muxWraps, hlast]

/-! ### DAC -/

/-- ACC moves on modulation ticks only: `update` never clears it (R228). -/
theorem State.accAfter_hold {s : State} (h : s.par.hasDac = false ∨ s.stb = false) : s.accAfter = s.regs.acc := by
  obtain h | h := h <;> simp [State.accAfter, h]

theorem State.rAfter_hold {s : State} (h : s.par.hasDac = false ∨ s.regs.seq ≠ .latch) : s.rAfter = s.regs.r := by
  obtain hdac | hseq := h
  · simp [State.rAfter, hdac]
  · exact State.r_afterTick_of_not_latch hseq

theorem State.seqAfter_hold {s : State} (h : s.par.hasDac = false ∨ s.regs.seq = .wait ∧ s.sampleTick = false) :
    s.seqAfter = s.regs.seq := by
  obtain hdac | ⟨hwait, htick⟩ := h
  · simp [State.seqAfter, hdac]
  · simp [State.seqAfter, hwait, htick]

theorem State.hAfter_hold {s : State} (h : s.par.hasDac = false ∨ s.regs.seq ≠ .channelRead) :
    s.hAfter = s.regs.h := by
  obtain hdac | hseq := h
  · simp [State.hAfter, State.reading, hdac]
  · exact State.h_afterTick_of_not_channelRead hseq

theorem State.qAfter_of_not_hasDac {s : State} (h : s.par.hasDac = false) : s.qAfter = s.regs.q := by
  simp [State.qAfter, h]

/-- A channel with nothing queued keeps the sample it holds (R232). -/
theorem State.hOf_afterTick_of_empty {s : State} {c : Nat} (hc : c < s.par.channels) (hempty : (s.qOf c).items = []) :
    s.afterTick.hOf c = s.hOf c := by
  by_cases h : s.par.hasDac = true ∧ s.regs.seq = .channelRead
  · obtain ⟨hdac, hseq⟩ := h
    rw [State.hOf_afterTick_of_channelRead hdac hseq hc, hempty, List.headD_nil]
  · have hhold : s.hAfter = s.regs.h := State.hAfter_hold (by simpa [or_iff_not_imp_left] using h)
    rw [State.hOf, State.afterTick_h, hhold]
    rfl

/-! ### Queues -/

theorem Fifo.pop_of_items_eq_nil {q : Fifo} (h : q.items = []) : q.pop = q := by
  simp [Fifo.pop, h]

/-- A tick that does not pop, or that finds the queue empty, leaves it as it was before the push. -/
theorem Fifo.ite_pop_eq_self {q : Fifo} {pop : Bool} (h : pop = false ∨ q.items = []) :
    (if pop then q.pop else q) = q := by
  obtain hpop | hempty := h
  · simp [hpop]
  · rw [Fifo.pop_of_items_eq_nil hempty, ite_self]

/-- What a queue keeps on a tick that pops nothing: the value popped last, and all of it when nothing is pushed. -/
theorem Fifo.hold_of_not_popped {q q' : Fifo} {v : Pattern} {pop offered : Bool}
    (h : q' = if offered && decide (q.items.length ≠ 16) then (if pop then q.pop else q).append v
      else if pop then q.pop else q)
    (hpop : pop = false ∨ q.items = []) :
    q'.last = q.last ∧ (offered = false ∨ q.items.length = 16 → q' = q) := by
  rw [Fifo.ite_pop_eq_self hpop] at h
  subst h
  refine ⟨?_, fun hnone => if_neg ?_⟩
  · split
    · exact Fifo.append_last q v
    · rfl
  · obtain hoffered | hfull := hnone
    · simp [hoffered]
    · simp [hfull]

/-- R232, R237: `Q[c]` outside CHANNEL_READ, or with nothing in it. -/
theorem State.qOf_afterTick_hold {s : State} {c : Nat} (hc : c < s.par.channels)
    (h : s.regs.seq ≠ .channelRead ∨ (s.qOf c).items = []) :
    (s.afterTick.qOf c).last = (s.qOf c).last ∧
      (s.qValid c = false ∨ (s.qOf c).items.length = 16 → s.afterTick.qOf c = s.qOf c) := by
  cases hdac : s.par.hasDac with
  | false =>
    have hsame : s.afterTick.qOf c = s.qOf c :=
      congrArg (fun q => q.getD c Fifo.reset) (State.qAfter_of_not_hasDac hdac)
    exact ⟨congrArg Fifo.last hsame, fun _ => hsame⟩
  | true =>
    refine Fifo.hold_of_not_popped (State.qOf_afterTick hdac hc) (h.imp_left fun hseq => ?_)
    simp [State.reading, hseq]

/-- R252, R257, R263: VQ and MAG without a sample tick, or with nothing in VQ. -/
theorem State.meterAfter_hold {s : State} (h : s.sampleTick = false ∨ s.regs.vq.items = []) :
    s.magAfter = s.regs.mag ∧ s.vqAfter.last = s.regs.vq.last ∧
      (s.inp.vuValid = false ∨ s.regs.vq.items.length = 16 → s.vqAfter = s.regs.vq) := by
  refine ⟨?_, Fifo.hold_of_not_popped rfl h⟩
  obtain htick | hempty := h
  · simp [State.magAfter, htick]
  · simp [State.magAfter, hempty]

/-- Settles O14: block by block, what a tick writes in the register view. -/
theorem registersHoldOtherwise : Obligations.RegistersHoldOtherwise := by
  intro s t hs hstep
  obtain rfl : s.afterTick = t := Host.Outcome.next.inj (hs.step_eq.symm.trans hstep)
  have hd := hs.dstateReachable
  have hlt : ∀ {k : Fin 4}, s.regs.dstate = .byte k → k.val < s.par.subslot := fun hst =>
    Params.dstateReachable_byte.1 (hst ▸ hd)
  have hidle (hgo : s.go = false) := State.dmxRow_of_not_go hgo
  exact ⟨State.phaseAfter_of_not_ready,
    fun hgo => ⟨congrArg DmxRow.dstate (hidle hgo), congrArg DmxRow.chan (hidle hgo), congrArg DmxRow.sub (hidle hgo)⟩,
    fun k hst hpos => State.dmxRow_chan_of_middle hst (hlt hst) hpos,
    fun k hst h => State.dmxRow_sub_of_last_or_marked hst (hlt hst) h,
    fun j herror hbyte => State.dmxRow_sub_getElem?_of_ne hd herror hbyte,
    State.offAfter_hold, State.selAfter_hold, State.accAfter_hold, State.rAfter_hold, State.seqAfter_hold,
    State.hAfter_hold, State.qAfter_of_not_hasDac, fun c hc => State.hOf_afterTick_of_empty hc,
    fun c hc => State.qOf_afterTick_hold hc, State.meterAfter_hold⟩

end Sys2Proof.Machine

namespace Sys2Proof.Machine

/-! ## The machine right after reset (R341, R343) -/

/-- Settles O4: each of the words is its operation's encoding, which decoding undoes. -/
theorem wordsWrittenOutDecode : Obligations.WordsWrittenOutDecode :=
  ⟨decode_encode (i := .rdivReload .pulse) rfl, decode_encode (i := .ncoHold) rfl,
    decode_encode (i := .dmxStart false true) rfl, decode_encode (i := .dmxLast) rfl,
    decode_encode (i := .muxByte) rfl, decode_encode (i := .dsmModupd) rfl, decode_encode (i := .seqLatch true) rfl,
    decode_encode (i := .vuReject) rfl, decode_encode (i := .vuKeep true) rfl, decode_encode (i := .fbRead 2) rfl⟩

/-! ### Registers and constants (R341, R345) -/

theorem regs_of_construct {cfg : Config} {s : State} (h : construct cfg = .ok s) : s.regs = resetRegs cfg s.par := by
  obtain ⟨p, -, rfl⟩ := construct_eq_ok_iff.1 h
  rfl

/-- A constructed machine has the constants of its configuration, of a depth and of two divisors that it fixes. -/
theorem par_of_construct {cfg : Config} {s : State} (h : construct cfg = .ok s) :
    ∃ (d : BitDepth) (cs cp : Nat), s.par = paramsOf cfg d cs cp ∧ d.bits = cfg.bitDepth ∧
      2 ^ cfg.tableLength.log2 = cfg.tableLength ∧ (cs : Rat) = cfg.masterHz / cfg.sampleRateHz ∧
      (cp : Int) = roundHalfEven (cfg.masterHz / cfg.pulseRateHz) := by
  obtain ⟨p, hp, rfl⟩ := construct_eq_ok_iff.1 h
  obtain ⟨d, hdepth, hcheck, cs, hcs, -, -, cp, hcp, -, -, -, rfl⟩ := setupParams_eq_ok_iff.1 hp
  obtain ⟨hlen, -, -, -, -, hm, hrate, hpulse, -⟩ := checkParams_eq_ok_iff.1 hcheck
  have hquot := (zeroToleranceAcceptsIntegerQuotientsOnly _ _ _ cs hm hrate).1 hcs
  obtain ⟨hround, -⟩ := (dividerBuiltIffRoundedDivisorWithinTolerance _ _ _ _ cp hm hpulse).1 hcp
  exact ⟨d, cs, cp, rfl, checkDepth_eq_ok_iff.1 hdepth, hlen, hquot.symm, hround.symm⟩

/-- Settles O18: the registers are the reset values, the constants those of the configuration and of its divisors. -/
theorem constructionSetsEveryRegister : Obligations.ConstructionSetsEveryRegister := by
  intro cfg s h
  obtain ⟨d, cs, cp, hpar, hbits, hlen, hcs, hcp⟩ := par_of_construct h
  have hchannels : s.par.channels = cfg.channels := by rw [hpar]; rfl
  refine ⟨?_, ?_⟩
  · rw [regs_of_construct h, ← hchannels]
    exact ⟨rfl, rfl, rfl, rfl, rfl, rfl, rfl, rfl, rfl, rfl, rfl, rfl, rfl, rfl, rfl⟩
  · rw [hpar, ← hbits, ← d.subslot_eq]
    exact ⟨rfl, rfl, rfl, rfl, rfl, hlen, rfl, rfl, rfl, hcs, hcp⟩

/-! ### The configuration of V-CFG-11 -/

theorem checkParams_defaultConfig : checkParams defaultConfig .d24 = .ok () :=
  checkParams_eq_ok_iff.2 (by decide)

/-- The two divisors of V-CFG-11 are the quotients of its frequencies. -/
theorem cfgRdiv_defaultConfig :
    cfgRdiv .sample defaultConfig.masterHz defaultConfig.sampleRateHz 0 = .ok 1250 ∧
      cfgRdiv .pulse defaultConfig.masterHz defaultConfig.pulseRateHz defaultConfig.pulseMaxPpm = .ok 2 :=
  ⟨(zeroToleranceAcceptsIntegerQuotientsOnly _ _ _ _ (by norm_num [defaultConfig])
      (by norm_num [defaultConfig])).2 (by norm_num [defaultConfig]),
    (zeroToleranceAcceptsIntegerQuotientsOnly _ _ _ _ (by norm_num [defaultConfig])
      (by norm_num [defaultConfig])).2 (by norm_num [defaultConfig])⟩

/-- V-CFG-11 needs 6 frames of 8 bytes a microframe, and its feedback value is the 6 in the format of R282. -/
theorem packet_and_feedback_of_defaultConfig :
    requiredBytes defaultConfig .d24 ≤ defaultConfig.maxPacketSize ∧
      cfgFb defaultConfig.sampleRateHz defaultConfig.fbShift < 2 ^ 32 := by
  have hrate : (0 : Rat) < defaultConfig.sampleRateHz := by norm_num [defaultConfig]
  have hframes : defaultConfig.sampleRateHz / 8000 = (6 : Int) := by norm_num [defaultConfig]
  have hfb : defaultConfig.sampleRateHz / 8000 * 2 ^ defaultConfig.fbShift = (786432 : Int) := by
    norm_num [defaultConfig]
  rw [requiredBytes_le_iff hrate, cfgFb_lt_iff hrate, hfb, hframes, Int.ceil_intCast, roundHalfEven_intCast]
  decide

theorem construct_defaultConfig : construct defaultConfig = .ok State.reset := by
  obtain ⟨hsample, hpulse⟩ := cfgRdiv_defaultConfig
  obtain ⟨hband, hfb⟩ := packet_and_feedback_of_defaultConfig
  exact construct_eq_ok_iff.2 ⟨paramsOf defaultConfig .d24 1250 2, setupParams_eq_ok_iff.2
    ⟨.d24, rfl, checkParams_defaultConfig, 1250, hsample, by decide, by decide, 2, hpulse, by decide,
      hband, hfb, rfl⟩, rfl⟩

/-- Settles O16: the range follows from O17. -/
theorem resetStateIsConstructedAndInRange : Obligations.ResetStateIsConstructedAndInRange :=
  ⟨constructedMachinesAreInRange _ _ construct_defaultConfig, construct_defaultConfig⟩

/-! ### The first tick (R343) -/

/-- Between two subframes the demultiplexer raises nothing and follows `anyready`, and it emits only where one byte is
a whole subframe (R171, R174, R183). -/
theorem State.dmxRow_between_subframes {s : State} (hst : s.regs.dstate = .byte 0) :
    s.dmxRow.violation = false ∧ s.dmxRow.inReady = s.anyReady ∧ (1 < s.par.subslot → s.dmxRow.emit = none) := by
  cases hgo : s.go with
  | false =>
    rw [State.dmxRow_of_not_go hgo]
    exact ⟨rfl, rfl, fun _ => rfl⟩
  | true =>
    obtain ⟨-, hany⟩ := State.go_eq_true_iff.1 hgo
    obtain hmore | hlast : 1 < s.par.subslot ∨ 1 = s.par.subslot := by
      have hpos := s.par.subslot_pos
      omega
    · rw [State.dmxRow_of_store hst hmore hgo (.inl rfl)]
      exact ⟨rfl, hany.symm, fun _ => rfl⟩
    · rw [State.dmxRow_of_complete hst hlast hgo (.inl rfl)]
      exact ⟨rfl, hany.symm, fun hmore => absurd hlast hmore.ne⟩

/-- A tick without an emission shows no `out_valid[c]` and the sample 0 (R180). -/
theorem State.outDuring_of_no_emission {s : State} (h : s.dmxRow.emit = none) :
    s.outDuring.dmxOutValid = List.replicate s.par.channels false ∧ s.outDuring.dmxOutSample = 0 := by
  simp only [State.outDuring, h, Option.any_none, Option.map_none, Option.getD_none, s.perChannel_false, and_self]

/-- Without the transport, or at a byte that is not the last, no subframe is finished (R206). -/
theorem State.muxWraps_eq_false {s : State} (h : s.inp.muxReady = false ∨ s.regs.off.toNat ≠ s.par.subslot - 1) :
    s.muxWraps = false := by
  obtain hready | hoff := h
  · simp [State.muxWraps, hready]
  · have hlast : s.atLastOffset = false := beq_false_of_ne hoff
    simp [State.muxWraps, hlast]

/-- With SEL and OFF at 0 the multiplexer shows byte 0 of channel 0's sample, and it finishes a subframe only where the
transport takes a byte that is all of it (R202, R203, R206). -/
theorem State.muxPorts_of_reset {s : State} (hmux : s.par.hasMux = true) (hsel : s.regs.sel = false)
    (hoff : s.regs.off = 0) :
    s.afterTick.out.muxOutByte = byteAt (packSample s.par.depth (s.muxSample 0)) 0 ∧
      (s.inp.muxReady = false ∨ 1 < s.par.subslot → s.afterTick.out.muxSReady = [false, false]) := by
  refine ⟨?_, fun hidle => ?_⟩
  · rw [State.afterTick_muxOutByte hmux, State.muxBuffer, State.muxChannel, hsel, hoff]
    rfl
  · have hfirst : s.regs.off.toNat = 0 := by rw [hoff]; rfl
    have hwraps : s.muxWraps = false := State.muxWraps_eq_false (hidle.imp_right fun hsize => by omega)
    rw [State.afterTick_muxSReady hmux, hwraps]
    rfl

/-- Every queue of the machine after reset has room. -/
theorem State.perChannel_room_of_reset {s : State} {n : Nat} (h : s.regs.q = List.replicate n Fifo.reset) :
    (s.perChannel fun c => decide ((s.qOf c).items.length ≠ 16)) = List.replicate s.par.channels true := by
  have hroom (c : Nat) : decide ((s.qOf c).items.length ≠ 16) = true := by
    rw [State.qOf, h, List.getD_eq_getElem?_getD, List.getElem?_getD_replicate_default_eq]
    rfl
  simp [State.perChannel, hroom]

/-- Below every threshold the bar is dark (R259 to R261). -/
theorem litOf_levelOf_of_lt {th : List Nat} {mag : Pattern} (hsorted : th.Pairwise (· ≤ ·)) (h : ∀ v ∈ th, mag < v) :
    litOf th mag = 0 ∧ levelOf th mag = 0 := by
  have hlevel : levelOf th mag = 0 := List.countP_eq_zero.2 fun v hv => by simpa using h v hv
  exact ⟨by rw [litOf_eq_two_pow_levelOf_sub_one hsorted, hlevel]; rfl, hlevel⟩

/-- Settles O19: the register view's ports, with the registers at their reset values. -/
theorem outputsOnTickZero : Obligations.OutputsOnTickZero := by
  intro cfg made s t xs hmade hs hsample hpulse hphase hstep
  have hok : s.Ok := by rw [hs]; exact constructedMachinesAreInRange cfg made hmade
  have hregs : s.regs = resetRegs cfg s.par := by rw [hs]; exact (regs_of_construct hmade :)
  have hsame : s.par = made.par := by rw [hs]
  obtain ⟨d, cs, cp, hpar, -⟩ := par_of_construct hmade
  rw [← hsame] at hpar
  have hchannels : s.par.channels = cfg.channels := by rw [hpar]; rfl
  have hmux : s.par.hasMux = cfg.hasMux := by rw [hpar]; rfl
  have hdac : s.par.hasDac = cfg.hasDac := by rw [hpar]; rfl
  obtain rfl : s.afterTick = t := Host.Outcome.next.inj (hok.step_eq.symm.trans hstep)
  obtain ⟨hviolation, hready, hemit⟩ := State.dmxRow_between_subframes (s := s) (by rw [hregs]; rfl)
  refine ⟨State.sampleTick_eq_true_iff.2 (by rw [hregs]; exact hsample),
    State.stb_eq_true_iff.2 (by rw [hregs]; exact hpulse), rfl, ?_, fun hsize => ?_, hviolation, hready,
    fun hbuilt => ?_, fun hbuilt => ?_, ?_, rfl, fun hth => ?_⟩
  · have hzero : s.regs.phase = 0 := by rw [hregs]; exact hphase
    exact congrArg (ncoOutput s.par) hzero
  · rw [← hchannels]
    exact State.outDuring_of_no_emission (hemit hsize)
  · have hmux := hmux.trans hbuilt
    exact ⟨hmux, State.muxPorts_of_reset hmux (by rw [hregs]; rfl) (by rw [hregs]; rfl)⟩
  · have hdac := hdac.trans hbuilt
    refine ⟨?_, (if_pos hdac).trans ?_⟩
    · have hidle : s.update = false := State.update_eq_false_iff.2 (by rw [hregs]; nofun)
      exact (congrArg (s.par.hasDac && ·) hidle).trans (Bool.and_false _)
    · rw [← hchannels]
      exact State.perChannel_room_of_reset (by rw [hregs]; rfl)
  · have hempty : s.regs.vq.items.length = 0 := by rw [hregs]; rfl
    exact decide_eq_true (by omega)
  · have hmag : s.regs.mag = 0 := by rw [hregs]; rfl
    obtain ⟨⟨-, -, -, -, -, -, -, hsorted, -⟩, -⟩ := hok
    exact litOf_levelOf_of_lt hsorted (hmag ▸ hth)

end Sys2Proof.Machine
